-- ==== Sys2Proof/Word.lean ====
section
/-! DEFINITION. The words of the block: 32-bit port and buffer words (rules R102, R103, R130),
64-bit words of the parameter deriver (rule R12), bytes (rule R103), and the stereo pair (rule R14). -/

namespace Sys2Proof

/-- A byte of a word carried as four bytes (rule R103). -/
abbrev Byte := BitVec 8

/-- A 32-bit word: a command word, or the bit pattern of a binary32 value (rules R103, R133). -/
abbrev Word := BitVec 32

/-- A 64-bit word: the bit pattern of a binary64 value of the deriver (rule R12). -/
abbrev DWord := BitVec 64

/-- The two channels (`N_CH = 2`, rules R7 and R14). -/
inductive Ch where
  | left
  | right
  deriving DecidableEq, Repr

/-- The other channel, the `c'` of the graph rules. -/
def Ch.other : Ch → Ch
  | .left => .right
  | .right => .left

/-- A sample pair: two lanes, L and R (rule R14). -/
structure Pair where
  l : Word
  r : Word
  deriving DecidableEq, Repr

/-- The lane of a channel. -/
def Pair.get (p : Pair) : Ch → Word
  | .left => p.l
  | .right => p.r

/-- The two lanes, left first, as the port carries them (rule R134). -/
def Pair.words (p : Pair) : List Word := [p.l, p.r]

end Sys2Proof
end

