-- ==== Sys2Proof/Config.lean ====
section
/-! DEFINITION. What an implementation of the block fixes (rules R8 and R9) and the values the spec
leaves open. Everything here that has a value is an uninterpreted constant: no proof can see which. -/

namespace Sys2Proof

/-- The 17 parameters, in the order of rule R401, each the bit pattern of a binary32 value. -/
structure ParamVec where
  rate : Word
  oversample : Word
  ertolate : Word
  wet : Word
  dry : Word
  ereffactor : Word
  erefwidth : Word
  width : Word
  wander : Word
  spin : Word
  bassb : Word
  inputlpf : Word
  basslpf : Word
  damplpf : Word
  outputlpf : Word
  rt60 : Word
  delay : Word
  deriving DecidableEq, Repr, Inhabited

/-- The parameter words `p[0..16]` (rules R136 and R401). -/
def ParamVec.words (p : ParamVec) : List Word :=
  [p.rate, p.oversample, p.ertolate, p.wet, p.dry, p.ereffactor, p.erefwidth, p.width, p.wander,
   p.spin, p.bassb, p.inputlpf, p.basslpf, p.damplpf, p.outputlpf, p.rt60, p.delay]

namespace Config

/-- The per-channel part of the topology record `TOPO` (rule R9): times are binary64 seconds. The
list of early-reflection taps holds (time, gain) pairs; its length is `er_ntaps[c]`. -/
structure TopoCh where
  erTaps : List (DWord × Word)
  erXdelayS : DWord
  erXapS : DWord
  diffS : Vector DWord 10
  diffModS : Vector DWord 10
  crossS : DWord
  dampAp1S : DWord
  dampAp1ModS : DWord
  dampAp2S : DWord
  dampAp2ModS : DWord
  dampDelayS : DWord
  cbassD1S : DWord
  cbassD2S : DWord
  cbassAp2S0 : DWord
  cbassAp2S1 : DWord
  cbassAp3S0 : DWord
  cbassAp3S1 : DWord
  cbassAp3S2 : DWord
  cbassAp3ModS : DWord
  combS : DWord
  outDelayS : DWord
  deriving DecidableEq, Repr, Inhabited

/-- The topology record `TOPO` (rule R9): a part for each channel, and the feedbacks (binary32) and
the high-pass cutoff (binary64), which the channels share. -/
structure Topo where
  left : TopoCh
  right : TopoCh
  erHpfHz : DWord
  erXapG : Word
  diffG : Vector Word 10
  dampAp1G : Word
  dampAp2G : Word
  cbassAp2G0 : Word
  cbassAp2G1 : Word
  cbassAp3G0 : Word
  cbassAp3G1 : Word
  cbassAp3G2 : Word
  deriving DecidableEq, Repr, Inhabited

/-- The record of a channel. -/
def Topo.ch (t : Topo) : Ch → TopoCh
  | .left => t.left
  | .right => t.right

/-- The open parameters of rule R8: the capacities, `TOPO`, the preset table, the two sentinels and
the four transcendental functions (binary64 to binary64). -/
structure Params where
  capPre : Nat
  capErTap : Nat
  capErXdelay : Nat
  capErXap : Nat
  capDiff : Vector Nat 10
  capCross : Nat
  capDampAp1 : Nat
  capDampAp2 : Nat
  capDampDelay : Nat
  capCbassD1 : Nat
  capCbassD2 : Nat
  capOutDelay : Nat
  capCbassAp2S0 : Nat
  capCbassAp2S1 : Nat
  capCbassAp3S0 : Nat
  capCbassAp3S1 : Nat
  capCbassAp3S2 : Nat
  capComb : Nat
  topo : Topo
  presets : List ParamVec
  sentinelPreset : Word
  sentinelBypass : Word
  fnExp : DWord → DWord
  fnSin : DWord → DWord
  fnCos : DWord → DWord
  fnPow10 : DWord → DWord
  deriving Inhabited

/-- The parameters of this block before the constraints of rules R8 and R9 are imposed
(`Sys2Proof.Machine.params` imposes them). Open in the spec (93_implementation_defined.md U2 to U6);
log entry 6. -/
opaque rawParams : Params

/-- The operations that can produce a NaN: the IEEE operations of rules R11 and R12. -/
inductive FloatOp where
  | add
  | sub
  | mul
  | div
  | sqrt
  | narrow
  | widen
  deriving DecidableEq, Repr

/-- The word a binary32 operation answers when its result is a NaN, before it is forced to be a NaN
encoding: a function of the operation and its operands (93_implementation_defined.md U8, "any
value"). Free value; log entry 8. -/
opaque freeNaN32 : FloatOp → DWord → DWord → Word

/-- The same for a binary64 operation. Free value; log entry 8. -/
opaque freeNaN64 : FloatOp → DWord → DWord → DWord

/-- What a binary32 configuration register holds after a parameter vector that is out of range: a
function of the vector and of the register (its instance id, its section inside the instance, its
place inside the section). The spec leaves it unspecified (rule R403). Free value; log entry 9. -/
opaque unspecified32 : ParamVec → BitVec 8 → Nat → Nat → Word

/-- What `FSI` holds after a parameter vector that is out of range (rule R403). Free value; log
entry 9. -/
opaque unspecified64 : ParamVec → DWord

end Config
end Sys2Proof
end

