-- ==== Sys2Proof/Syntax.lean ====
section
/-! DEFINITION. The instructions of the block: the eight external commands (rule R140) and the 21
internal operations (rule R141), one constructor for each row of spec/opcode_table.json; the command
records that carry them (rules R130 to R133); the status words (rule R450). -/

namespace Sys2Proof

/-- An instance number, the `INST` field of an internal operation (rules R40 and R132). -/
abbrev InstId := BitVec 8

/-- What an internal operation acts on: an instance, or a part of one. Rules R201, R261 and R263 give
the `line` of an AP1, AP2 section or COMB, and the sections `s0`, `s1`, `s2` of AP2 and AP3M, as
operands too; the `INST` field names whole instances only (rule R141), so those parts are named here
and have no encoding (log entry 14). -/
inductive Place where
  /-- The instance with this id. -/
  | inst (id : InstId)
  /-- Section `s_k` of an AP2 or AP3M instance. -/
  | sec (id : InstId) (k : Fin 3)
  /-- The `line` of an AP1 or COMB instance. -/
  | line (id : InstId)
  /-- The `line` of section `s_k` of an AP2 or AP3M instance. -/
  | secLine (id : InstId) (k : Fin 3)
  deriving DecidableEq, Repr

/-- The instructions. `keep` is the `PRESERVE` bit (rule R131). -/
inductive Instr where
  | reset
  | cfgBypass (keep : Bool)
  | cfgPreset (keep : Bool) (id : BitVec 16)
  | cfgAdvanced (keep : Bool) (p : ParamVec)
  | cfgVector (keep : Bool) (v : List Word)
  | processSample (inL inR : Word)
  | processBlock (xs : List Pair)
  | queryValid
  | dlWrite (d : Place) (x : Word)
  | dlRead (d : Place) (offset : Word)
  | dlProcess (d : Place) (x : Word)
  | iir1Process (f : InstId) (x : Word)
  | bqProcess (q : InstId) (x : Word)
  | ap1Process (a : Place) (x : Word)
  | ap2Process (a : InstId) (x : Word)
  | ap3mProcess (a : InstId) (x m : Word)
  | apmProcess (a : Place) (x m : Word)
  | combProcess (c : InstId) (x : Word)
  | noiseNext (n : InstId)
  | noiseGenerate (n : InstId)
  | lfoStep (l : InstId)
  | dccutProcess (d : InstId) (x : Word)
  | osUp (q : InstId) (u j : Word)
  | osDown (q : InstId) (z : Word)
  | erStep (xL xR : Word)
  | lateStep (uL uR : Word)
  | lateOsStep (uL uR : Word)
  | engineSample (inL inR : Word)
  | derive (p : ParamVec)
  deriving DecidableEq, Repr

/-- Who issues a request: the host, on the command port, or the engine, which runs the internal
operations (rules R6 and R142; log entry 2). -/
inductive Origin where
  | host
  | engine
  deriving DecidableEq, Repr

/-- A command record: a header word and its payload words (rule R130). -/
structure Record where
  header : Word
  payload : List Word
  deriving DecidableEq, Repr

/-- A record with the agent that issues it. -/
structure Request where
  origin : Origin
  record : Record
  deriving DecidableEq, Repr

/-- The command statuses (rule R450). -/
inductive Status where
  | ok
  | illegalOp
  | reserved
  | badLength
  | badPreset
  deriving DecidableEq, Repr

/-- Who issues an instruction: the host issues the external commands (rule R140), the engine the
internal operations (rules R141 and R142). -/
def Instr.origin : Instr → Origin
  | .reset => .host
  | .cfgBypass _ => .host
  | .cfgPreset _ _ => .host
  | .cfgAdvanced _ _ => .host
  | .cfgVector _ _ => .host
  | .processSample _ _ => .host
  | .processBlock _ => .host
  | .queryValid => .host
  | .dlWrite _ _ => .engine
  | .dlRead _ _ => .engine
  | .dlProcess _ _ => .engine
  | .iir1Process _ _ => .engine
  | .bqProcess _ _ => .engine
  | .ap1Process _ _ => .engine
  | .ap2Process _ _ => .engine
  | .ap3mProcess _ _ _ => .engine
  | .apmProcess _ _ _ => .engine
  | .combProcess _ _ => .engine
  | .noiseNext _ => .engine
  | .noiseGenerate _ => .engine
  | .lfoStep _ => .engine
  | .dccutProcess _ _ => .engine
  | .osUp _ _ _ => .engine
  | .osDown _ _ => .engine
  | .erStep _ _ => .engine
  | .lateStep _ _ => .engine
  | .lateOsStep _ _ => .engine
  | .engineSample _ _ => .engine
  | .derive _ => .engine

end Sys2Proof
end

