-- ==== Sys2Proof/Machine/Instances.lean ====
section
/-! DEFINITION. The instances of the block (rule R40): their ids, their types, the parts of them that
an operation can name, and the capacity of every buffer (rules R8 and R40). -/

namespace Sys2Proof.Machine

open Sys2Proof.Config (Params)

/-- The delay-line instances of a channel (type DL of rule R40). -/
inductive DlRole where
  | preWet
  | preDry
  | erTap
  | erXdelay
  | crossDelay
  | dampDelay
  | cbassD1
  | cbassD2
  | outDelay
  deriving DecidableEq, Repr

/-- Every delay line of a channel: the DL instances and the lines inside AP1, AP2, AP3M and COMB. -/
inductive LineRole where
  | dl (r : DlRole)
  | erXap
  | cbassAp2S0
  | cbassAp2S1
  | cbassAp3S0
  | cbassAp3S2
  | comb
  deriving DecidableEq, Repr

/-- The plain all-pass sections of a channel (type AP1): one instance and four sections. -/
inductive Ap1Role where
  | erXap
  | cbassAp2S0
  | cbassAp2S1
  | cbassAp3S0
  | cbassAp3S2
  deriving DecidableEq, Repr

/-- The modulated all-passes of a channel (type APM): twelve instances and the section `s1` of the
3rd-order all-pass. -/
inductive ApmRole where
  | diff (i : Fin 10)
  | dampAp1
  | dampAp2
  | cbassAp3S1
  deriving DecidableEq, Repr

/-- The first-order filters of a channel (type IIR1). -/
inductive Iir1Role where
  | erLpf
  | erHpf
  | crossLpf
  | dampLpf
  deriving DecidableEq, Repr

/-- The biquads of a channel (type BQ). -/
inductive BqRole where
  | osUp
  | osDown
  | bassAp
  | bassLpf
  | outLpf
  deriving DecidableEq, Repr

/-- An instance of rule R40, with its type. -/
inductive Inst where
  | engine
  | noise
  | lfo1
  | lfo2
  | lfo1Lpf
  | lfo2Lpf
  | dl (c : Ch) (r : DlRole)
  | iir1 (c : Ch) (r : Iir1Role)
  | ap1 (c : Ch)
  | bq (c : Ch) (r : BqRole)
  | dcc (c : Ch)
  | apm (c : Ch) (r : ApmRole)
  | ap2 (c : Ch)
  | ap3m (c : Ch)
  | comb (c : Ch)
  deriving DecidableEq, Repr

/-- The channel of a per-channel role: even ids are left, odd ids right (rule R40). -/
def chanOfId (id : InstId) : Ch := if id.toNat % 2 = 0 then .left else .right

/-- The instance a number names, if it names one (rule R40). -/
def instOfId (id : InstId) : Option Inst :=
  let n := id.toNat
  let c := chanOfId id
  if h : 0x30 ≤ n ∧ n < 0x3A then some (.apm .left (.diff ⟨n - 0x30, by omega⟩))
  else if h : 0x40 ≤ n ∧ n < 0x4A then some (.apm .right (.diff ⟨n - 0x40, by omega⟩))
  else if n = 0x00 then some .engine
  else if n = 0x01 then some .noise
  else if n = 0x02 then some .lfo1
  else if n = 0x03 then some .lfo2
  else if n = 0x04 then some .lfo1Lpf
  else if n = 0x05 then some .lfo2Lpf
  else if n / 2 = 0x08 then some (.dl c .preWet)
  else if n / 2 = 0x09 then some (.dl c .preDry)
  else if n / 2 = 0x0A then some (.iir1 c .erLpf)
  else if n / 2 = 0x0B then some (.iir1 c .erHpf)
  else if n / 2 = 0x0C then some (.dl c .erTap)
  else if n / 2 = 0x0D then some (.dl c .erXdelay)
  else if n / 2 = 0x0E then some (.ap1 c)
  else if n / 2 = 0x0F then some (.bq c .osUp)
  else if n / 2 = 0x10 then some (.bq c .osDown)
  else if n / 2 = 0x11 then some (.dcc c)
  else if n / 2 = 0x28 then some (.dl c .crossDelay)
  else if n / 2 = 0x29 then some (.iir1 c .crossLpf)
  else if n / 2 = 0x2A then some (.bq c .bassAp)
  else if n / 2 = 0x2B then some (.bq c .bassLpf)
  else if n / 2 = 0x2C then some (.iir1 c .dampLpf)
  else if n / 2 = 0x2D then some (.apm c .dampAp1)
  else if n / 2 = 0x2E then some (.apm c .dampAp2)
  else if n / 2 = 0x2F then some (.dl c .dampDelay)
  else if n / 2 = 0x30 then some (.dl c .cbassD1)
  else if n / 2 = 0x31 then some (.ap2 c)
  else if n / 2 = 0x32 then some (.dl c .cbassD2)
  else if n / 2 = 0x33 then some (.ap3m c)
  else if n / 2 = 0x34 then some (.comb c)
  else if n / 2 = 0x35 then some (.bq c .outLpf)
  else if n / 2 = 0x36 then some (.dl c .outDelay)
  else none

/-- The id of a per-channel role: the even one, plus 1 on the right (rule R40). -/
def pairId (even : Nat) (c : Ch) : InstId :=
  BitVec.ofNat 8 (match c with | .left => even | .right => even + 1)

/-- The id of a delay-line instance (rule R40). -/
def dlId (c : Ch) : DlRole → InstId
  | .preWet => pairId 0x10 c
  | .preDry => pairId 0x12 c
  | .erTap => pairId 0x18 c
  | .erXdelay => pairId 0x1A c
  | .crossDelay => pairId 0x50 c
  | .dampDelay => pairId 0x5E c
  | .cbassD1 => pairId 0x60 c
  | .cbassD2 => pairId 0x64 c
  | .outDelay => pairId 0x6C c

/-- The id of a first-order filter of a channel (rule R40). -/
def iir1Id (c : Ch) : Iir1Role → InstId
  | .erLpf => pairId 0x14 c
  | .erHpf => pairId 0x16 c
  | .crossLpf => pairId 0x52 c
  | .dampLpf => pairId 0x58 c

/-- The id of a biquad (rule R40). -/
def bqId (c : Ch) : BqRole → InstId
  | .osUp => pairId 0x1E c
  | .osDown => pairId 0x20 c
  | .bassAp => pairId 0x54 c
  | .bassLpf => pairId 0x56 c
  | .outLpf => pairId 0x6A c

/-- The id of the instance a modulated all-pass is, or is a section of (rule R40). -/
def apmId (c : Ch) : ApmRole → InstId
  | .diff i => BitVec.ofNat 8 ((match c with | .left => 0x30 | .right => 0x40) + i.val)
  | .dampAp1 => pairId 0x5A c
  | .dampAp2 => pairId 0x5C c
  | .cbassAp3S1 => pairId 0x66 c

/-- The delay line a place names, for DL_WRITE, DL_READ and DL_PROCESS: an instance of type DL, or the
`line` of an AP1, AP2 section, AP3M section of type AP1, or COMB (rule R201). -/
def lineOfPlace : Place → Option (Ch × LineRole)
  | .inst id =>
    match instOfId id with
    | some (.dl c r) => some (c, .dl r)
    | _ => none
  | .line id =>
    match instOfId id with
    | some (.ap1 c) => some (c, .erXap)
    | some (.comb c) => some (c, .comb)
    | _ => none
  | .secLine id k =>
    match instOfId id, k with
    | some (.ap2 c), 0 => some (c, .cbassAp2S0)
    | some (.ap2 c), 1 => some (c, .cbassAp2S1)
    | some (.ap3m c), 0 => some (c, .cbassAp3S0)
    | some (.ap3m c), 2 => some (c, .cbassAp3S2)
    | _, _ => none
  | .sec _ _ => none

/-- The plain all-pass a place names: an instance of type AP1, or a section of type AP1 inside an AP2
or AP3M (rule R261). -/
def ap1OfPlace : Place → Option (Ch × Ap1Role)
  | .inst id =>
    match instOfId id with
    | some (.ap1 c) => some (c, .erXap)
    | _ => none
  | .sec id k =>
    match instOfId id, k with
    | some (.ap2 c), 0 => some (c, .cbassAp2S0)
    | some (.ap2 c), 1 => some (c, .cbassAp2S1)
    | some (.ap3m c), 0 => some (c, .cbassAp3S0)
    | some (.ap3m c), 2 => some (c, .cbassAp3S2)
    | _, _ => none
  | .line _ => none
  | .secLine _ _ => none

/-- The modulated all-pass a place names: an instance of type APM, or section `s1` of an AP3M
(rule R263). -/
def apmOfPlace : Place → Option (Ch × ApmRole)
  | .inst id =>
    match instOfId id with
    | some (.apm c r) => some (c, r)
    | _ => none
  | .sec id k =>
    match instOfId id, k with
    | some (.ap3m c), 1 => some (c, .cbassAp3S1)
    | _, _ => none
  | .line _ => none
  | .secLine _ _ => none

/-- The first-order filters: four for each channel and the two that smooth the LFOs. -/
inductive Iir1Ref where
  | chan (c : Ch) (r : Iir1Role)
  | lfo1
  | lfo2
  deriving DecidableEq, Repr

/-- The first-order filter an id names (rule R40). -/
def iir1OfId (id : InstId) : Option Iir1Ref :=
  match instOfId id with
  | some (.iir1 c r) => some (.chan c r)
  | some .lfo1Lpf => some .lfo1
  | some .lfo2Lpf => some .lfo2
  | _ => none

/-- The biquad an id names (rule R40). -/
def bqOfId (id : InstId) : Option (Ch × BqRole) :=
  match instOfId id with
  | some (.bq c r) => some (c, r)
  | _ => none

/-- The 2nd-order all-pass an id names (rule R40). -/
def ap2OfId (id : InstId) : Option Ch :=
  match instOfId id with
  | some (.ap2 c) => some c
  | _ => none

/-- The 3rd-order all-pass an id names (rule R40). -/
def ap3mOfId (id : InstId) : Option Ch :=
  match instOfId id with
  | some (.ap3m c) => some c
  | _ => none

/-- The comb an id names (rule R40). -/
def combOfId (id : InstId) : Option Ch :=
  match instOfId id with
  | some (.comb c) => some c
  | _ => none

/-- The DC cut an id names (rule R40). -/
def dccOfId (id : InstId) : Option Ch :=
  match instOfId id with
  | some (.dcc c) => some c
  | _ => none

/-- Whether an id names the noise source (rule R40). -/
def isNoiseId (id : InstId) : Bool := instOfId id == some .noise

/-- The LFOs. -/
inductive LfoRef where
  | lfo1
  | lfo2
  deriving DecidableEq, Repr

/-- The LFO an id names (rule R40). -/
def lfoOfId (id : InstId) : Option LfoRef :=
  match instOfId id with
  | some .lfo1 => some .lfo1
  | some .lfo2 => some .lfo2
  | _ => none

/-- The capacity of a delay line (rules R8 and R40); one capacity serves both channels. -/
def lineCap (P : Params) : LineRole → Nat
  | .dl .preWet => P.capPre
  | .dl .preDry => P.capPre
  | .dl .erTap => P.capErTap
  | .dl .erXdelay => P.capErXdelay
  | .dl .crossDelay => P.capCross
  | .dl .dampDelay => P.capDampDelay
  | .dl .cbassD1 => P.capCbassD1
  | .dl .cbassD2 => P.capCbassD2
  | .dl .outDelay => P.capOutDelay
  | .erXap => P.capErXap
  | .cbassAp2S0 => P.capCbassAp2S0
  | .cbassAp2S1 => P.capCbassAp2S1
  | .cbassAp3S0 => P.capCbassAp3S0
  | .cbassAp3S2 => P.capCbassAp3S2
  | .comb => P.capComb

/-- The capacity of a modulated all-pass (rules R8 and R40). -/
def apmCap (P : Params) : ApmRole → Nat
  | .diff i => P.capDiff[i]
  | .dampAp1 => P.capDampAp1
  | .dampAp2 => P.capDampAp2
  | .cbassAp3S1 => P.capCbassAp3S1

/-- The line of a plain all-pass. -/
def Ap1Role.line : Ap1Role → LineRole
  | .erXap => .erXap
  | .cbassAp2S0 => .cbassAp2S0
  | .cbassAp2S1 => .cbassAp2S1
  | .cbassAp3S0 => .cbassAp3S0
  | .cbassAp3S2 => .cbassAp3S2

end Sys2Proof.Machine
end

