-- ==== Sys2Proof/WellFormed.lean ====
section
/-! DEFINITION. Which instruction terms are well formed: an operand names an instance, or a part of
one, of the operation's type (rules R40, R141, R201, R261, R263); a count word can carry the length of
a variable-length payload (rules R133 and R136). -/

namespace Sys2Proof

open Sys2Proof.Machine

/-- A term is well formed: the check of each constructor's operands. -/
def Instr.wellFormed : Instr → Bool
  | .reset => true
  | .cfgBypass _ => true
  | .cfgPreset _ _ => true
  | .cfgAdvanced _ _ => true
  | .cfgVector _ v => decide (v.length < 2 ^ 32)
  | .processSample _ _ => true
  | .processBlock xs => decide (xs.length < 2 ^ 32)
  | .queryValid => true
  | .dlWrite d _ => (lineOfPlace d).isSome
  | .dlRead d _ => (lineOfPlace d).isSome
  | .dlProcess d _ => (lineOfPlace d).isSome
  | .iir1Process f _ => (iir1OfId f).isSome
  | .bqProcess q _ => (bqOfId q).isSome
  | .ap1Process a _ => (ap1OfPlace a).isSome
  | .ap2Process a _ => (ap2OfId a).isSome
  | .ap3mProcess a _ _ => (ap3mOfId a).isSome
  | .apmProcess a _ _ => (apmOfPlace a).isSome
  | .combProcess c _ => (combOfId c).isSome
  | .noiseNext n => isNoiseId n
  | .noiseGenerate n => isNoiseId n
  | .lfoStep l => (lfoOfId l).isSome
  | .dccutProcess d _ => (dccOfId d).isSome
  | .osUp q _ _ => (bqOfId q).isSome
  | .osDown q _ => (bqOfId q).isSome
  | .erStep _ _ => true
  | .lateStep _ _ => true
  | .lateOsStep _ _ => true
  | .engineSample _ _ => true
  | .derive _ => true

/-- A place the `INST` field can carry: a whole instance (rule R141). -/
def Place.encodable : Place → Bool
  | .inst _ => true
  | .sec _ _ => false
  | .line _ => false
  | .secLine _ _ => false

/-- A term that a command record can carry: its operand is not a part of an instance (rule R141). -/
def Instr.encodable : Instr → Bool
  | .dlWrite d _ => d.encodable
  | .dlRead d _ => d.encodable
  | .dlProcess d _ => d.encodable
  | .ap1Process a _ => a.encodable
  | .apmProcess a _ _ => a.encodable
  | .reset => true
  | .cfgBypass _ => true
  | .cfgPreset _ _ => true
  | .cfgAdvanced _ _ => true
  | .cfgVector _ _ => true
  | .processSample _ _ => true
  | .processBlock _ => true
  | .queryValid => true
  | .iir1Process _ _ => true
  | .bqProcess _ _ => true
  | .ap2Process _ _ => true
  | .ap3mProcess _ _ _ => true
  | .combProcess _ _ => true
  | .noiseNext _ => true
  | .noiseGenerate _ => true
  | .lfoStep _ => true
  | .dccutProcess _ _ => true
  | .osUp _ _ _ => true
  | .osDown _ _ => true
  | .erStep _ _ => true
  | .lateStep _ _ => true
  | .lateOsStep _ _ => true
  | .engineSample _ _ => true
  | .derive _ => true

end Sys2Proof
end

