-- ==== Sys2Proof/Decode.lean ====
section
/-! DEFINITION. From command records to instructions and back (rules R130 to R147 and the checks of
rule R451 that need no open parameter), the byte order of a carried word (rule R103), and the status
words (rule R450). -/

namespace Sys2Proof

/-! ## Status words -/

/-- The value of a status (rule R450). -/
def statusWord : Status → Word
  | .ok => 0
  | .illegalOp => 1
  | .reserved => 2
  | .badLength => 3
  | .badPreset => 4

/-! ## Header fields -/

/-- `OP`, bits 7:0 (rules R131 and R132). -/
def opOf (h : Word) : Nat := (h.extractLsb' 0 8).toNat

/-- `PRESERVE`, bit 8 (rule R131). -/
def preserveOf (h : Word) : Bool := h.getLsbD 8

/-- `RSV`, bits 15:9 (rule R131). -/
def rsvOf (h : Word) : BitVec 7 := h.extractLsb' 9 7

/-- `IMM16`, bits 31:16 (rule R131). -/
def immOf (h : Word) : BitVec 16 := h.extractLsb' 16 16

/-- `INST`, bits 15:8 (rule R132). -/
def instFieldOf (h : Word) : InstId := h.extractLsb' 8 8

/-- A header of format H (rule R131): `IMM16`, `RSV = 0`, `PRESERVE`, `OP`. -/
def headerH (op : BitVec 8) (keep : Bool) (imm : BitVec 16) : Word :=
  imm ++ (0 : BitVec 7) ++ BitVec.ofBool keep ++ op

/-- A header of format I (rule R132): `IMM16` unused and written 0, `INST`, `OP`. -/
def headerI (op : BitVec 8) (inst : InstId) : Word :=
  (0 : BitVec 16) ++ inst ++ op

/-! ## Payloads -/

/-- The 17 parameter words in order (rules R136 and R401), none for another count. -/
def paramsOfWords : List Word → Option ParamVec
  | [w0, w1, w2, w3, w4, w5, w6, w7, w8, w9, w10, w11, w12, w13, w14, w15, w16] =>
    some ⟨w0, w1, w2, w3, w4, w5, w6, w7, w8, w9, w10, w11, w12, w13, w14, w15, w16⟩
  | _ => none

/-- Sample pairs, each the left word then the right word (rule R134); none for an odd count. -/
def pairsOfWords : List Word → Option (List Pair)
  | [] => some []
  | [_] => none
  | l :: r :: t =>
    match pairsOfWords t with
    | some ps => some (⟨l, r⟩ :: ps)
    | none => none

/-- The words of a list of pairs (rule R134). -/
def wordsOfPairs : List Pair → List Word
  | [] => []
  | p :: t => p.l :: p.r :: wordsOfPairs t

/-- A count word (rule R133). -/
def countWord (n : Nat) : Word := BitVec.ofNat 32 n

/-! ## Decoding -/

/-- The external operation `op` with its payload, after the header checks (rules R136 and R140). The
length rule of CFG_VECTOR beyond `1 + L` words stands in its meaning (rule R425; log entry 19). -/
def decodePayload (op : Nat) (keep : Bool) (imm : BitVec 16) (ws : List Word) :
    Except Status Instr :=
  match op, ws with
  | 0x01, [] => .ok .reset
  | 0x02, [] => .ok (.cfgBypass keep)
  | 0x03, [] => .ok (.cfgPreset keep imm)
  | 0x04, ws =>
    match paramsOfWords ws with
    | some p => .ok (.cfgAdvanced keep p)
    | none => .error .badLength
  | 0x05, l :: v => if v.length = l.toNat then .ok (.cfgVector keep v) else .error .badLength
  | 0x06, [a, b] => .ok (.processSample a b)
  | 0x07, n :: ws =>
    if ws.length = 2 * n.toNat then
      match pairsOfWords ws with
      | some xs => .ok (.processBlock xs)
      | none => .error .badLength
    else .error .badLength
  | 0x08, [] => .ok .queryValid
  | _, _ => .error .badLength

/-- A record on the command port (rules R142 and R451): the opcode, then the reserved fields, then the
payload. -/
def decodeHost (r : Record) : Except Status Instr :=
  let op := opOf r.header
  if op < 0x01 ∨ 0x08 < op then .error .illegalOp
  else if rsvOf r.header ≠ 0 then .error .reserved
  else if preserveOf r.header = true ∧ (op = 0x01 ∨ op = 0x06 ∨ op = 0x07 ∨ op = 0x08) then
    .error .reserved
  else if immOf r.header ≠ 0 ∧ op ≠ 0x03 then .error .reserved
  else decodePayload op (preserveOf r.header) (immOf r.header) r.payload

/-- An internal operation with its payload words (rule R141). -/
def decodeInternal (op : Nat) (id : InstId) (ws : List Word) : Except Status Instr :=
  match op, ws with
  | 0x10, [x] => .ok (.dlWrite (.inst id) x)
  | 0x11, [k] => .ok (.dlRead (.inst id) k)
  | 0x12, [x] => .ok (.dlProcess (.inst id) x)
  | 0x13, [x] => .ok (.iir1Process id x)
  | 0x14, [x] => .ok (.bqProcess id x)
  | 0x15, [x] => .ok (.ap1Process (.inst id) x)
  | 0x16, [x] => .ok (.ap2Process id x)
  | 0x17, [x, m] => .ok (.ap3mProcess id x m)
  | 0x18, [x, m] => .ok (.apmProcess (.inst id) x m)
  | 0x19, [x] => .ok (.combProcess id x)
  | 0x1A, [] => .ok (.noiseNext id)
  | 0x1B, [] => .ok (.noiseGenerate id)
  | 0x1C, [] => .ok (.lfoStep id)
  | 0x1D, [x] => .ok (.dccutProcess id x)
  | 0x1E, [u, j] => .ok (.osUp id u j)
  | 0x1F, [z] => .ok (.osDown id z)
  | 0x20, [xL, xR] => if id = 0 then .ok (.erStep xL xR) else .error .reserved
  | 0x21, [uL, uR] => if id = 0 then .ok (.lateStep uL uR) else .error .reserved
  | 0x22, [uL, uR] => if id = 0 then .ok (.lateOsStep uL uR) else .error .reserved
  | 0x23, [a, b] => if id = 0 then .ok (.engineSample a b) else .error .reserved
  | 0x24, ws =>
    if id = 0 then
      match paramsOfWords ws with
      | some p => .ok (.derive p)
      | none => .error .badLength
    else .error .reserved
  | _, _ => .error .badLength

/-- A request the engine issues (rules R132 and R141): `IMM16` is unused and not read. -/
def decodeEngine (r : Record) : Except Status Instr :=
  let op := opOf r.header
  if op < 0x10 ∨ 0x24 < op then .error .illegalOp
  else decodeInternal op (instFieldOf r.header) r.payload

/-- The instruction a record spells for the agent that issues it. Total: every record is an instruction
or is rejected by a named status. -/
def decode : Origin → Record → Except Status Instr
  | .host, r => decodeHost r
  | .engine, r => decodeEngine r

/-! ## Encoding -/

/-- The instance number a place is written with; a part of an instance has none of its own and is
written with the number of the whole (`Instr.encodable` says which terms a record can carry). -/
def placeId : Place → InstId
  | .inst id => id
  | .sec id _ => id
  | .line id => id
  | .secLine id _ => id

/-- The record of an instruction (rules R131, R132, R136, R140, R141). -/
def encode : Instr → Record
  | .reset => ⟨headerH 0x01 false 0, []⟩
  | .cfgBypass keep => ⟨headerH 0x02 keep 0, []⟩
  | .cfgPreset keep id => ⟨headerH 0x03 keep id, []⟩
  | .cfgAdvanced keep p => ⟨headerH 0x04 keep 0, p.words⟩
  | .cfgVector keep v => ⟨headerH 0x05 keep 0, countWord v.length :: v⟩
  | .processSample a b => ⟨headerH 0x06 false 0, [a, b]⟩
  | .processBlock xs => ⟨headerH 0x07 false 0, countWord xs.length :: wordsOfPairs xs⟩
  | .queryValid => ⟨headerH 0x08 false 0, []⟩
  | .dlWrite d x => ⟨headerI 0x10 (placeId d), [x]⟩
  | .dlRead d k => ⟨headerI 0x11 (placeId d), [k]⟩
  | .dlProcess d x => ⟨headerI 0x12 (placeId d), [x]⟩
  | .iir1Process f x => ⟨headerI 0x13 f, [x]⟩
  | .bqProcess q x => ⟨headerI 0x14 q, [x]⟩
  | .ap1Process a x => ⟨headerI 0x15 (placeId a), [x]⟩
  | .ap2Process a x => ⟨headerI 0x16 a, [x]⟩
  | .ap3mProcess a x m => ⟨headerI 0x17 a, [x, m]⟩
  | .apmProcess a x m => ⟨headerI 0x18 (placeId a), [x, m]⟩
  | .combProcess c x => ⟨headerI 0x19 c, [x]⟩
  | .noiseNext n => ⟨headerI 0x1A n, []⟩
  | .noiseGenerate n => ⟨headerI 0x1B n, []⟩
  | .lfoStep l => ⟨headerI 0x1C l, []⟩
  | .dccutProcess d x => ⟨headerI 0x1D d, [x]⟩
  | .osUp q u j => ⟨headerI 0x1E q, [u, j]⟩
  | .osDown q z => ⟨headerI 0x1F q, [z]⟩
  | .erStep a b => ⟨headerI 0x20 0, [a, b]⟩
  | .lateStep a b => ⟨headerI 0x21 0, [a, b]⟩
  | .lateOsStep a b => ⟨headerI 0x22 0, [a, b]⟩
  | .engineSample a b => ⟨headerI 0x23 0, [a, b]⟩
  | .derive p => ⟨headerI 0x24 0, p.words⟩

/-! ## Words as bytes, and the opcode table's numbers -/

/-- A word as four bytes, byte 0 the bits 7:0 (rule R103). -/
def bytesOfWord (w : Word) : List Byte :=
  [w.extractLsb' 0 8, w.extractLsb' 8 8, w.extractLsb' 16 8, w.extractLsb' 24 8]

/-- The word of four bytes, byte 0 the bits 7:0 (rule R103). -/
def wordOfBytes (b0 b1 b2 b3 : Byte) : Word := b3 ++ b2 ++ b1 ++ b0

/-- The words a byte sequence carries; the port accepts whole words only (rule R104), so there are none
for a length that is no multiple of four. -/
def wordsOfBytes : List Byte → Option (List Word)
  | [] => some []
  | b0 :: b1 :: b2 :: b3 :: t =>
    match wordsOfBytes t with
    | some ws => some (wordOfBytes b0 b1 b2 b3 :: ws)
    | none => none
  | _ => none

/-- The record a byte sequence carries: the first word is the header (rule R130). -/
def recordOfBytes (bs : List Byte) : Option Record :=
  match wordsOfBytes bs with
  | some (h :: ws) => some ⟨h, ws⟩
  | _ => none

/-- The bytes of a record, its words in order (rules R103 and R130). -/
def bytesOfRecord (r : Record) : List Byte :=
  (r.header :: r.payload).flatMap bytesOfWord

/-- Decoding from bytes, total on any byte sequence: bytes that are no whole words carry no record, and
the block never acts on a partial record (rules R104 and R130; log entry 20). -/
def decodeBytes (o : Origin) (bs : List Byte) : Except Status Instr :=
  match recordOfBytes bs with
  | some r => decode o r
  | none => .error .badLength

/-- Who issues a record with this header: the engine where the opcode is an internal operation's
(rule R141), else the host. -/
def originOfHeader (h : Word) : Origin :=
  if 0x10 ≤ opOf h ∧ opOf h ≤ 0x24 then .engine else .host

/-- How many payload words the rules give a header (rules R136 and R141), `w0` being the first payload
word where a count stands there. -/
def payloadCount (h w0 : Word) : Nat :=
  match opOf h with
  | 0x04 => 17
  | 0x05 => 1 + w0.toNat
  | 0x06 => 2
  | 0x07 => 1 + 2 * w0.toNat
  | 0x10 => 1
  | 0x11 => 1
  | 0x12 => 1
  | 0x13 => 1
  | 0x14 => 1
  | 0x15 => 1
  | 0x16 => 1
  | 0x17 => 2
  | 0x18 => 2
  | 0x19 => 1
  | 0x1D => 1
  | 0x1E => 2
  | 0x1F => 1
  | 0x20 => 2
  | 0x21 => 2
  | 0x22 => 2
  | 0x23 => 2
  | 0x24 => 17
  | _ => 0

/-- The `n` words of the number `w` from word `k` on. -/
def wordsOfNumber (w : Nat) : Nat → Nat → List Word
  | _, 0 => []
  | k, n + 1 => BitVec.ofNat 32 (w / 2 ^ (32 * k)) :: wordsOfNumber w (k + 1) n

/-- The record of an instruction whose bits are the low `nbits` of `w`, numbered as
spec/opcode_table.json numbers them, every bit above them 0. -/
def recordOfNumber (nbits w : Nat) : Record :=
  let v := w % 2 ^ nbits
  let h : Word := BitVec.ofNat 32 v
  ⟨h, wordsOfNumber v 1 (payloadCount h (BitVec.ofNat 32 (v / 2 ^ 32)))⟩

/-- The instruction the decoder reads from the bits `w`, laid out as words and bytes in the order of
rule R103 and issued by the agent whose operation it is. -/
def decodeTableWord (nbits w : Nat) : Option Instr :=
  let r := recordOfNumber nbits w
  match decodeBytes (originOfHeader r.header) (bytesOfRecord r) with
  | .ok i => some i
  | .error _ => none

end Sys2Proof
end

