-- ==== Sys2Proof/Machine/Float.lean ====
section
/-! DEFINITION. IEEE 754 arithmetic on bit patterns (rules R11 and R12): binary32 and binary64, rounded
to nearest with ties to even, subnormals kept, no fused operation, no exception flag. A value is taken
apart into a sign, a natural significand and an exponent, the result is computed exactly (a quotient or
a square root with a sticky last bit), and rounded once. -/

namespace Sys2Proof.Machine

open Sys2Proof.Config (FloatOp freeNaN32 freeNaN64)

/-- A binary format: `p` significand bits with the hidden one, `w` exponent bits, and the exponent of the
least subnormal. -/
structure Format where
  p : Nat
  w : Nat
  emin : Int
  deriving DecidableEq, Repr

/-- IEEE binary32. -/
def binary32 : Format := ⟨24, 8, -149⟩

/-- IEEE binary64. -/
def binary64 : Format := ⟨53, 11, -1074⟩

/-- A floating-point datum: a NaN, an infinity, or `(-1)^neg * m * 2^e`. -/
inductive Num where
  | nan
  | inf (neg : Bool)
  | fin (neg : Bool) (m : Nat) (e : Int)
  deriving DecidableEq, Repr

/-! ## Encodings -/

/-- The datum of a bit pattern. -/
def unpack (f : Format) (b : Nat) : Num :=
  let frac := b % 2 ^ (f.p - 1)
  let ex := b / 2 ^ (f.p - 1) % 2 ^ f.w
  let neg := decide (b / 2 ^ (f.p - 1 + f.w) % 2 = 1)
  if ex = 2 ^ f.w - 1 then
    if frac = 0 then .inf neg else .nan
  else if ex = 0 then .fin neg frac f.emin
  else .fin neg (frac + 2 ^ (f.p - 1)) (f.emin + ((ex : Int) - 1))

/-- `m / 2^d` rounded to the nearest integer, ties to even (for `d > 0`). -/
def roundShift (m d : Nat) : Nat :=
  let q := m / 2 ^ d
  let r := m % 2 ^ d
  let half := 2 ^ (d - 1)
  if half < r ∨ (r = half ∧ q % 2 = 1) then q + 1 else q

/-- The bits of the magnitude infinity. -/
def infBits (f : Format) : Nat := (2 ^ f.w - 1) * 2 ^ (f.p - 1)

/-- The magnitude bits of `m * 2^e` rounded to nearest, ties to even, overflow to infinity. With `q` the
rounded significand at exponent `e'`, the encoding of both a normal and a subnormal number is
`q + (e' - emin) * 2^(p-1)`. -/
def roundBits (f : Format) (m : Nat) (e : Int) : Nat :=
  if m = 0 then 0
  else
    let e' := max (e + (Nat.log2 m : Int) + 1 - (f.p : Int)) f.emin
    let q := if e' ≤ e then m * 2 ^ (e - e').toNat else roundShift m (e' - e).toNat
    min (q + (e' - f.emin).toNat * 2 ^ (f.p - 1)) (infBits f)

/-- The sign bit's weight, when set. -/
def signBits (f : Format) (neg : Bool) : Nat := if neg then 2 ^ (f.p - 1 + f.w) else 0

/-- The bits of a datum that is no NaN; `nanBits` stands for a NaN. -/
def pack (f : Format) (nanBits : Nat) : Num → Nat
  | .nan => nanBits
  | .inf neg => signBits f neg + infBits f
  | .fin neg m e => signBits f neg + roundBits f m e

/-! ## Exact operations -/

/-- The integer `± m * 2^(e - e0)`, for `e0 ≤ e`. -/
def scaled (neg : Bool) (m : Nat) (e e0 : Int) : Int :=
  let a : Int := (m * 2 ^ (e - e0).toNat : Nat)
  if neg then -a else a

/-- The sum; an exact zero is positive unless both addends are negative (round to nearest). -/
def Num.add : Num → Num → Num
  | .nan, _ => .nan
  | _, .nan => .nan
  | .inf s, .inf t => if s = t then .inf s else .nan
  | .inf s, .fin _ _ _ => .inf s
  | .fin _ _ _, .inf t => .inf t
  | .fin s m e, .fin t n g =>
    let e0 := min e g
    let v := scaled s m e e0 + scaled t n g e0
    if v = 0 then .fin (s && t) 0 e0 else .fin (decide (v < 0)) v.natAbs e0

/-- The sign flipped (rule R11: unary minus flips the sign bit only). -/
def Num.neg : Num → Num
  | .nan => .nan
  | .inf s => .inf (!s)
  | .fin s m e => .fin (!s) m e

/-- The product. -/
def Num.mul : Num → Num → Num
  | .nan, _ => .nan
  | _, .nan => .nan
  | .inf s, .inf t => .inf (s ^^ t)
  | .inf s, .fin t n _ => if n = 0 then .nan else .inf (s ^^ t)
  | .fin s m _, .inf t => if m = 0 then .nan else .inf (s ^^ t)
  | .fin s m e, .fin t n g => .fin (s ^^ t) (m * n) (e + g)

/-- The quotient, with two more bits than `f` holds and a sticky last bit, so that rounding it to `f`
rounds the exact quotient. -/
def Num.div (f : Format) : Num → Num → Num
  | .nan, _ => .nan
  | _, .nan => .nan
  | .inf _, .inf _ => .nan
  | .inf s, .fin t _ _ => .inf (s ^^ t)
  | .fin s _ _, .inf t => .fin (s ^^ t) 0 0
  | .fin s m e, .fin t n g =>
    if n = 0 then (if m = 0 then .nan else .inf (s ^^ t))
    else
      let k := f.p + 2 + Nat.log2 n
      let a := m * 2 ^ k
      let q := a / n
      .fin (s ^^ t) (2 * q + (if a % n = 0 then 0 else 1)) (e - g - k - 1)

/-- The integer square root, bit by bit from bit `k - 1` down, `r` being the part found. -/
def isqrtFrom (n : Nat) : Nat → Nat → Nat
  | 0, r => r
  | k + 1, r => if (r + 2 ^ k) * (r + 2 ^ k) ≤ n then isqrtFrom n k (r + 2 ^ k) else isqrtFrom n k r

/-- The greatest `r` with `r * r ≤ n`. -/
def isqrt (n : Nat) : Nat := isqrtFrom n (Nat.log2 n / 2 + 1) 0

/-- The square root, with more bits than `f` holds and a sticky last bit. -/
def Num.sqrt (f : Format) : Num → Num
  | .nan => .nan
  | .inf s => if s then .nan else .inf false
  | .fin s m e =>
    if m = 0 then .fin s 0 e
    else if s then .nan
    else
      let k := 2 * (f.p + 2) + (e % 2).toNat
      let a := m * 2 ^ k
      let r := isqrt a
      .fin false (2 * r + (if r * r = a then 0 else 1)) ((e - k) / 2 - 1)

/-- Equality of values: zeros of both signs are equal, a NaN equals nothing. -/
def Num.eq : Num → Num → Bool
  | .inf s, .inf t => s == t
  | .fin s m e, .fin t n g => scaled s m e (min e g) == scaled t n g (min e g)
  | _, _ => false

/-- Strict order of values: false with a NaN. -/
def Num.lt : Num → Num → Bool
  | .nan, _ => false
  | _, .nan => false
  | .inf s, .inf t => s && !t
  | .inf s, .fin _ _ _ => s
  | .fin _ _ _, .inf t => !t
  | .fin s m e, .fin t n g => decide (scaled s m e (min e g) < scaled t n g (min e g))

/-- Order of values: false with a NaN. -/
def Num.le (a b : Num) : Bool := a.lt b || a.eq b

/-- The greatest integer not above a finite value (rule R13). -/
def floorFin (neg : Bool) (m : Nat) (e : Int) : Int :=
  let a : Int := if neg then -(m : Int) else m
  if 0 ≤ e then a * 2 ^ e.toNat else a / (2 ^ (-e).toNat : Int)

/-- A finite value rounded toward zero (rule R13). -/
def truncFin (neg : Bool) (m : Nat) (e : Int) : Int :=
  let a : Int := if 0 ≤ e then (m * 2 ^ e.toNat : Nat) else (m / 2 ^ (-e).toNat : Nat)
  if neg then -a else a

/-! ## binary32 -/

/-- The datum of a binary32 pattern, `f32(b)` of rule R14's notation. -/
def val32 (a : Word) : Num := unpack binary32 a.toNat

/-- Whether a binary32 pattern is a NaN (every NaN encoding). -/
def isNaN32 (a : Word) : Bool := val32 a == .nan

/-- The NaN an operation produces: any NaN encoding (93_implementation_defined.md U8). The free word is
taken as it is where it is a NaN, and made the quiet NaN where it is not. Log entry 8. -/
def nan32 (op : FloatOp) (a b : DWord) : Word :=
  let r := freeNaN32 op a b
  if isNaN32 r then r else 0x7FC00000

/-- The pattern of a datum, rounded (rule R11). -/
def pack32 (op : FloatOp) (a b : DWord) : Num → Word
  | .nan => nan32 op a b
  | .inf neg => BitVec.ofNat 32 (pack binary32 0 (.inf neg))
  | .fin neg m e => BitVec.ofNat 32 (pack binary32 0 (.fin neg m e))

/-- `a + b` (rule R11). -/
def add32 (a b : Word) : Word :=
  pack32 .add (a.setWidth 64) (b.setWidth 64) ((val32 a).add (val32 b))

/-- `a - b` (rule R11). -/
def sub32 (a b : Word) : Word :=
  pack32 .sub (a.setWidth 64) (b.setWidth 64) ((val32 a).add (val32 b).neg)

/-- `a * b` (rule R11). -/
def mul32 (a b : Word) : Word :=
  pack32 .mul (a.setWidth 64) (b.setWidth 64) ((val32 a).mul (val32 b))

/-- `a / b` (rule R11). -/
def div32 (a b : Word) : Word :=
  pack32 .div (a.setWidth 64) (b.setWidth 64) ((val32 a).div binary32 (val32 b))

/-- The square root (rule R11). -/
def sqrt32 (a : Word) : Word :=
  pack32 .sqrt (a.setWidth 64) 0 ((val32 a).sqrt binary32)

/-- `-a`: the sign bit flipped and nothing else (rule R11). -/
def neg32 (a : Word) : Word := a ^^^ 0x80000000

/-- `a == b` on binary32 values (rule R144: zeros are equal, a NaN equals nothing). -/
def eq32 (a b : Word) : Bool := (val32 a).eq (val32 b)

/-- `a <= b` on binary32 values. -/
def le32 (a b : Word) : Bool := (val32 a).le (val32 b)

/-- An integer as binary32, rounded to nearest (rule R302's `f32_of_int`). -/
def int32ToF32 (n : Int) : Word :=
  BitVec.ofNat 32 (pack binary32 0 (.fin (decide (n < 0)) n.natAbs 0))

/-- A natural number as binary32, exact below 2^24 (rule R262). -/
def nat32 (n : Nat) : Word := int32ToF32 n

/-! ## binary64 -/

/-- The datum of a binary64 pattern. -/
def val64 (a : DWord) : Num := unpack binary64 a.toNat

/-- Whether a binary64 pattern is a NaN. -/
def isNaN64 (a : DWord) : Bool := val64 a == .nan

/-- The NaN a binary64 operation produces: any NaN encoding; log entry 8. -/
def nan64 (op : FloatOp) (a b : DWord) : DWord :=
  let r := freeNaN64 op a b
  if isNaN64 r then r else 0x7FF8000000000000

/-- The pattern of a datum, rounded (rule R12). -/
def pack64 (op : FloatOp) (a b : DWord) : Num → DWord
  | .nan => nan64 op a b
  | .inf neg => BitVec.ofNat 64 (pack binary64 0 (.inf neg))
  | .fin neg m e => BitVec.ofNat 64 (pack binary64 0 (.fin neg m e))

/-- `a + b` in binary64 (rule R12). -/
def add64 (a b : DWord) : DWord := pack64 .add a b ((val64 a).add (val64 b))

/-- `a - b` in binary64 (rule R12). -/
def sub64 (a b : DWord) : DWord := pack64 .sub a b ((val64 a).add (val64 b).neg)

/-- `a * b` in binary64 (rule R12). -/
def mul64 (a b : DWord) : DWord := pack64 .mul a b ((val64 a).mul (val64 b))

/-- `a / b` in binary64 (rule R12). -/
def div64 (a b : DWord) : DWord := pack64 .div a b ((val64 a).div binary64 (val64 b))

/-- `-a` in binary64: the sign bit flipped (rules R11 and R12). -/
def neg64 (a : DWord) : DWord := a ^^^ 0x8000000000000000

/-- `a < b` on binary64 values. -/
def lt64 (a b : DWord) : Bool := (val64 a).lt (val64 b)

/-- `a <= b` on binary64 values. -/
def le64 (a b : DWord) : Bool := (val64 a).le (val64 b)

/-- A natural number as binary64, exact below 2^53 (rule R405's `f64(n)`). -/
def nat64 (n : Nat) : DWord := BitVec.ofNat 64 (pack binary64 0 (.fin false n 0))

/-- A binary32 value widened exactly (rule R12). -/
def widen (a : Word) : DWord := pack64 .widen (a.setWidth 64) 0 (val32 a)

/-- `to_f32`: a binary64 value rounded to binary32, overflow to infinity (rule R12). -/
def narrow (a : DWord) : Word := pack32 .narrow a 0 (val64 a)

end Sys2Proof.Machine
end

