-- ==== Sys2Proof/Machine/Params.lean ====
section
/-! DEFINITION. The constants of rules R7 and R10, the ranges of a parameter vector (rule R402), the
constraints on the open parameters (rules R8 and R9), and the parameters of this block. -/

namespace Sys2Proof.Machine

open Sys2Proof.Config (Params Topo TopoCh rawParams)

/-! ## Constants (rules R7 and R10) -/

/-- `NOISE_LEN`, two to the power `NOISE_LOG2 = 14`. -/
def noiseLen : Nat := 2 ^ 14

/-- `NOISE_OCTAVES`. -/
def noiseOctaves : Nat := 8

/-- `NOISE_SEED`. -/
def noiseSeed : Word := 0x12345678

/-- `LFO_RENORM`. -/
def lfoRenorm : Nat := 1024

/-- `LFO2_RATIO`, 0.618034. -/
def lfo2Ratio : DWord := 0x3FE3C6EF3D3A1D32

/-- `LFO_LPF_HZ`, 20.0. -/
def lfoLpfHz : DWord := 0x4034000000000000

/-- `DCCUT_HZ`, 5.0. -/
def dccutHz : DWord := 0x4014000000000000

/-- `OS_CUTOFF_RATIO`, 0.45. -/
def osCutoffRatio : DWord := 0x3FDCCCCCCCCCCCCD

/-- `BQ_Q`, 0.7071067811865476. -/
def bqQ : DWord := 0x3FE6A09E667F3BCD

/-- `TWO_PI`, 6.283185307179586. -/
def twoPi : DWord := 0x401921FB54442D18

/-- `VEC_MAX`. -/
def vecMax : Nat := 64

/-- `OS_MAX`, the largest oversample factor (rule R7). -/
def osMax : Nat := 4

/-- `ER_MAX_TAPS` (rule R7). -/
def erMaxTaps : Nat := 18

/-- 1.0 in binary32. -/
def one32 : Word := 0x3F800000

/-- 1.0 in binary64. -/
def one64 : DWord := 0x3FF0000000000000

/-- 2.0 in binary64. -/
def two64 : DWord := 0x4000000000000000

/-- 20.0 in binary64. -/
def twenty64 : DWord := 0x4034000000000000

/-! ## Ranges -/

/-- Neither an infinity nor a NaN. -/
def isFinite32 (a : Word) : Bool :=
  match val32 a with
  | .fin _ _ _ => true
  | _ => false

/-- A binary32 value `x` with `lo <= x <= hi`, the bounds given in binary64. No binary32 value lies
between a decimal bound of rule R402 and the binary64 value nearest it, so this is the comparison of
real numbers (log entry 10). -/
def within (lo hi : DWord) (x : Word) : Bool :=
  le64 lo (widen x) && le64 (widen x) hi

/-- A cutoff: finite with `0 < fc < rate/2` (rule R402). -/
def cutoffOk (rate fc : Word) : Bool :=
  isFinite32 fc && lt64 0 (widen fc) && lt64 (widen fc) (div64 (widen rate) two64)

/-- A parameter vector is in range (rule R402). -/
def inRange (p : ParamVec) : Bool :=
  isFinite32 p.rate && lt64 0 (widen p.rate)
    && within one64 0x4010000000000000 p.oversample
    && within 0 one64 p.ertolate
    && within 0xC051800000000000 0x4024000000000000 p.wet
    && within 0xC051800000000000 0x4024000000000000 p.dry
    && within 0x3FE0000000000000 0x4004000000000000 p.ereffactor
    && within 0xBFF0000000000000 one64 p.erefwidth
    && within 0 one64 p.width
    && within 0x3FB999999999999A 0x3FE3333333333333 p.wander
    && within 0 0x4024000000000000 p.spin
    && within 0 0x3FE0000000000000 p.bassb
    && cutoffOk p.rate p.inputlpf
    && cutoffOk p.rate p.basslpf
    && cutoffOk p.rate p.damplpf
    && cutoffOk p.rate p.outputlpf
    && within 0x3FB999999999999A 0x403E000000000000 p.rt60
    && within 0xBFE0000000000000 0x3FE0000000000000 p.delay

/-! ## The constraints on the open parameters -/

/-- A capacity between its least value and 2^24, that value included (rule R8). Rule R13 has lengths below
2^24; that a line may nevertheless be as long as a capacity of 2^24 is the model's choice (log entry 24). -/
def capOk (lo n : Nat) : Bool := decide (lo ≤ n) && decide (n ≤ 2 ^ 24)

/-- A time in seconds: `≥ 0` (rule R9). -/
def timeOk (t : DWord) : Bool := le64 0 t

/-- A feedback: `|g| < 1` (rule R9). -/
def feedbackOk (g : Word) : Bool :=
  lt64 0xBFF0000000000000 (widen g) && lt64 (widen g) one64

/-- The constraints on a channel's part of `TOPO` (rule R9). -/
def topoChOk (t : TopoCh) : Bool :=
  decide (t.erTaps.length ≤ erMaxTaps)
    && t.erTaps.all (fun x => timeOk x.1 && isFinite32 x.2)
    && timeOk t.erXdelayS && timeOk t.erXapS
    && t.diffS.toList.all timeOk && t.diffModS.toList.all timeOk
    && timeOk t.crossS && timeOk t.dampAp1S && timeOk t.dampAp1ModS
    && timeOk t.dampAp2S && timeOk t.dampAp2ModS && timeOk t.dampDelayS
    && timeOk t.cbassD1S && timeOk t.cbassD2S && timeOk t.cbassAp2S0 && timeOk t.cbassAp2S1
    && timeOk t.cbassAp3S0 && timeOk t.cbassAp3S1 && timeOk t.cbassAp3S2 && timeOk t.cbassAp3ModS
    && timeOk t.combS && timeOk t.outDelayS

/-- The constraints on `TOPO` (rule R9). The high-pass cutoff must lie below half of every rate used; the
rates known beforehand are those of the presets (log entry 17). -/
def topoOk (P : Params) : Bool :=
  topoChOk P.topo.left && topoChOk P.topo.right
    && lt64 0 P.topo.erHpfHz
    && P.presets.all (fun p => lt64 P.topo.erHpfHz (div64 (widen p.rate) two64))
    && feedbackOk P.topo.erXapG && P.topo.diffG.toList.all feedbackOk
    && feedbackOk P.topo.dampAp1G && feedbackOk P.topo.dampAp2G
    && feedbackOk P.topo.cbassAp2G0 && feedbackOk P.topo.cbassAp2G1
    && feedbackOk P.topo.cbassAp3G0 && feedbackOk P.topo.cbassAp3G1
    && feedbackOk P.topo.cbassAp3G2

/-- The constraints on the capacities (rule R8): at least 2 for a modulated all-pass and the tap line,
at least 1 for a line read at offset 0, none for a line used only through DL_PROCESS. -/
def capsOk (P : Params) : Bool :=
  capOk 0 P.capPre && capOk 2 P.capErTap && capOk 0 P.capErXdelay && capOk 1 P.capErXap
    && P.capDiff.toList.all (capOk 2)
    && capOk 1 P.capCross && capOk 2 P.capDampAp1 && capOk 2 P.capDampAp2
    && capOk 0 P.capDampDelay && capOk 0 P.capCbassD1 && capOk 0 P.capCbassD2
    && capOk 0 P.capOutDelay && capOk 1 P.capCbassAp2S0 && capOk 1 P.capCbassAp2S1
    && capOk 1 P.capCbassAp3S0 && capOk 2 P.capCbassAp3S1 && capOk 1 P.capCbassAp3S2
    && capOk 1 P.capComb

/-- The constraints on the preset table and the sentinels (rule R8): at least one preset, each in range;
the sentinels distinct values, neither a NaN, each `≤ 0.0`. -/
def presetsOk (P : Params) : Bool :=
  decide (1 ≤ P.presets.length) && P.presets.all inRange
    && !(eq32 P.sentinelPreset P.sentinelBypass)
    && le32 P.sentinelPreset 0 && le32 P.sentinelBypass 0

/-- Every open parameter meets its constraint (rules R8 and R9). -/
def paramsOk (P : Params) : Bool := capsOk P && topoOk P && presetsOk P

/-! ## The spec's test parameters -/

/-- The parameter vector `P4` of 95_test_vectors.md. -/
def testVec : ParamVec :=
  ⟨0x473B8000, 0x3F800000, 0x3F000000, 0x00000000, 0x00000000, 0x3F800000, 0x3F800000, 0x3F800000,
   0x3F000000, 0x3F800000, 0x3E800000, 0x45FA0000, 0x43480000, 0x45BB8000, 0x461C4000, 0x3F800000,
   0x00000000⟩

/-- 2^-15, 2^-14 and 2^-13 seconds, the `A`, `B`, `C` of 95_test_vectors.md. -/
def timeA : DWord := 0x3F00000000000000

/-- `B`; see `timeA`. -/
def timeB : DWord := 0x3F10000000000000

/-- `C`; see `timeA`. -/
def timeC : DWord := 0x3F20000000000000

/-- The test topology of 95_test_vectors.md, left channel. -/
def testTopoLeft : TopoCh where
  erTaps := [(timeB, 0x3F000000), (timeC, 0xBE800000)]
  erXdelayS := 0
  erXapS := timeA
  diffS := .replicate 10 timeA
  diffModS := .replicate 10 timeC
  crossS := timeA
  dampAp1S := timeB
  dampAp1ModS := timeC
  dampAp2S := timeB
  dampAp2ModS := timeC
  dampDelayS := 0
  cbassD1S := timeA
  cbassD2S := 0
  cbassAp2S0 := timeA
  cbassAp2S1 := timeB
  cbassAp3S0 := timeA
  cbassAp3S1 := timeA
  cbassAp3S2 := timeB
  cbassAp3ModS := timeC
  combS := timeC
  outDelayS := 0

/-- The test topology of 95_test_vectors.md, right channel. -/
def testTopoRight : TopoCh :=
  { testTopoLeft with
    erTaps := [(0x3F28000000000000, 0x3F400000)]
    erXdelayS := timeA
    erXapS := timeB
    dampAp1S := timeA
    dampAp2S := timeA
    combS := 0x3F30000000000000 }

/-- The open parameters that 95_test_vectors.md chooses for its test configuration, with four presets and
two sentinels. They serve the model's own tests; and they stand in for parameters that break the
constraints of rules R8 and R9, which no implementation may have (`params`, log entry 6). -/
def testParams : Params where
  capPre := 8
  capErTap := 16
  capErXdelay := 4
  capErXap := 4
  capDiff := .replicate 10 8
  capCross := 4
  capDampAp1 := 8
  capDampAp2 := 8
  capDampDelay := 4
  capCbassD1 := 4
  capCbassD2 := 4
  capOutDelay := 4
  capCbassAp2S0 := 4
  capCbassAp2S1 := 4
  capCbassAp3S0 := 4
  capCbassAp3S1 := 8
  capCbassAp3S2 := 4
  capComb := 16
  topo :=
    { left := testTopoLeft
      right := testTopoRight
      erHpfHz := 0x4049000000000000
      erXapG := 0x3F000000
      diffG := .replicate 10 0x3F19999A
      dampAp1G := 0x3ECCCCCD
      dampAp2G := 0xBE99999A
      cbassAp2G0 := 0x3F000000
      cbassAp2G1 := 0xBF000000
      cbassAp3G0 := 0x3E99999A
      cbassAp3G1 := 0x3E99999A
      cbassAp3G2 := 0x3E99999A }
  presets := [testVec, testVec, testVec, testVec]
  sentinelPreset := 0xBF800000
  sentinelBypass := 0xC0000000
  fnExp := fun _ => one64
  fnSin := fun _ => 0
  fnCos := fun _ => one64
  fnPow10 := fun _ => one64

/-! ## The parameters of this block -/

/-- The open parameters of this block: any that meet rules R8 and R9. `rawParams` has no value, so no
proof can use more of them than `paramsOk`; raw parameters that break a constraint are no parameters of
any block and are replaced, which leaves every lawful choice possible (log entry 6). -/
def params : Params := if paramsOk rawParams then rawParams else testParams

/-- The preset table's row `id`, if `id < N_PRESETS` (rule R414). -/
def presetRow (P : Params) (id : Nat) : Option ParamVec := P.presets[id]?

/-- `N_PRESETS` (rule R8). -/
def nPresets (P : Params) : Nat := P.presets.length

end Sys2Proof.Machine
end

