-- ==== Sys2Proof/Machine/Noise.lean ====
section
/-! DEFINITION. The contents of the noise table (rules R301 to R305). -/

namespace Sys2Proof.Machine

/-- The generator step (rule R301): shifts left 13, right 17, left 5 on 32 bits. -/
def xorshift32 (s : Word) : Word :=
  let a := s ^^^ (s <<< 13)
  let b := a ^^^ (a >>> 17)
  b ^^^ (b <<< 5)

/-- A uniform value from a generator state (rule R302): the state as a signed integer, times 2^-31. -/
def uniform (s : Word) : Word := mul32 (int32ToF32 s.toInt) 0x30000000

/-- The weight of octave `o` (rule R303): `to_f32(2^o / 255.0)`. -/
def octaveWeight (o : Nat) : Word := narrow (div64 (nat64 (2 ^ o)) (nat64 (2 ^ noiseOctaves - 1)))

/-- The next `n` generator states after `s`, first first, and the last of them (`s` itself for none). -/
def draws : Nat → Word → List Word × Word
  | 0, s => ([], s)
  | n + 1, s =>
    let s1 := xorshift32 s
    let r := draws n s1
    (s1 :: r.1, r.2)

/-- One octave added to the table (rule R304): each draw covers a run of `2^o` entries. -/
def addOctave (o : Nat) (tab : List Word) (s : Word) : List Word × Word :=
  let d := draws (noiseLen / 2 ^ o) s
  let vs := d.1.flatMap (fun x => List.replicate (2 ^ o) (mul32 (octaveWeight o) (uniform x)))
  (List.zipWith add32 tab vs, d.2)

/-- The octaves from `o` on, `n` of them. -/
def addOctaves : Nat → Nat → List Word → Word → List Word
  | 0, _, tab, _ => tab
  | n + 1, o, tab, s =>
    let r := addOctave o tab s
    addOctaves n (o + 1) r.1 r.2

/-- The table NOISE_GENERATE fills, from `NOISE_SEED` and entries of +0.0 (rule R304). -/
def noiseTable : List Word := addOctaves noiseOctaves 0 (List.replicate noiseLen 0) noiseSeed

end Sys2Proof.Machine
end

