-- ==== Sys2Proof/Machine/State.lean ====
section
/-! DEFINITION. The state of the block (10_state.md): every instance of rule R40 with its stream state and
its configuration registers, `MODE`, the engine's own registers, and three fields of the model (the
command port's queue and the last answers); the state after reset (rule R60); why a step can stop. -/

namespace Sys2Proof.Machine

/-! ## Buffers -/

/-- A buffer of binary32 words (rule R100): (index, word) pairs, indices strictly rising, no word listed
that is +0.0. An unlisted index reads as +0.0, the value of every buffer word after reset (rule R60). -/
abbrev Memory := List (Nat × Word)

/-- The word an unlisted index reads as: +0.0 (rule R60). -/
def Memory.unlisted : Word := 0

/-- The canonical form from index `lo` on. -/
def Memory.wfFrom : Nat → Memory → Bool
  | _, [] => true
  | lo, (a, w) :: t => decide (lo ≤ a) && decide (w ≠ Memory.unlisted) && Memory.wfFrom (a + 1) t

/-- The canonical form: indices strictly rising, no entry that reads as an unlisted one. -/
def Memory.wf (m : Memory) : Bool := Memory.wfFrom 0 m

/-! ## The primitive types (rules R33 to R39) -/

/-- A delay line (type DL, rule R33). -/
structure Line where
  /-- The words `buf[0..CAP-1]` (stream state). -/
  buf : Memory
  /-- The logical length (configuration register). -/
  size : Nat
  /-- The next slot to be written (stream state). -/
  cursor : Nat
  deriving DecidableEq, Repr

/-- A first-order filter (type IIR1, rule R34). -/
structure Iir1 where
  b0 : Word
  b1 : Word
  a1 : Word
  x1 : Word
  y1 : Word
  deriving DecidableEq, Repr

/-- A biquad (type BQ, rule R35). -/
structure Bq where
  b0 : Word
  b1 : Word
  b2 : Word
  a1 : Word
  a2 : Word
  x1 : Word
  x2 : Word
  y1 : Word
  y2 : Word
  deriving DecidableEq, Repr

/-- A plain all-pass (type AP1, rule R36). -/
structure Ap1 where
  line : Line
  g : Word
  decay : Word
  deriving DecidableEq, Repr

/-- A modulated all-pass (type APM, rule R37). -/
structure Apm where
  buf : Memory
  size : Nat
  msize : Nat
  g : Word
  decay : Word
  wpos : Nat
  rpos : Nat
  deriving DecidableEq, Repr

/-- A 2nd-order all-pass (type AP2, rule R38). -/
structure Ap2 where
  s0 : Ap1
  s1 : Ap1
  deriving DecidableEq, Repr

/-- A 3rd-order modulated all-pass (type AP3M, rule R38). -/
structure Ap3m where
  s0 : Ap1
  s1 : Apm
  s2 : Ap1
  deriving DecidableEq, Repr

/-- A comb (type COMB, rule R39). -/
structure Comb where
  line : Line
  fb : Word
  deriving DecidableEq, Repr

/-- A DC cut (type DCC, rule R39). -/
structure Dcc where
  r : Word
  x1 : Word
  y1 : Word
  deriving DecidableEq, Repr

/-- The noise source (type NOISE, rule R39): the table's `NOISE_LEN` words and the read cursor. -/
structure Noise where
  tab : List Word
  npos : Nat
  deriving DecidableEq, Repr

/-- An oscillator (type LFO, rule R39). -/
structure Lfo where
  c : Word
  s : Word
  re : Word
  im : Word
  count : Nat
  deriving DecidableEq, Repr

/-- An early-reflection tap: its offset `ER_OFF` and its gain `ER_GAIN` (rule R51). -/
structure Tap where
  off : Nat
  gain : Word
  deriving DecidableEq, Repr

/-! ## A channel (rule R40) -/

/-- Every per-channel instance of rule R40, and the channel's tap registers (rule R51). -/
structure Chan where
  preWet : Line
  preDry : Line
  erLpf : Iir1
  erHpf : Iir1
  erTap : Line
  erXdelay : Line
  erXap : Ap1
  osUp : Bq
  osDown : Bq
  dccut : Dcc
  diff : Vector Apm 10
  crossDelay : Line
  crossLpf : Iir1
  bassAp : Bq
  bassLpf : Bq
  dampLpf : Iir1
  dampAp1 : Apm
  dampAp2 : Apm
  dampDelay : Line
  cbassD1 : Line
  cbassAp2 : Ap2
  cbassD2 : Line
  cbassAp3 : Ap3m
  comb : Comb
  outLpf : Bq
  outDelay : Line
  /-- `ER_NTAPS[c]` (rule R51). -/
  nTaps : Fin 19
  /-- `ER_OFF[c][k]` and `ER_GAIN[c][k]`, `k` in 0..17 (rule R51). -/
  taps : Vector Tap 18
  deriving DecidableEq, Repr

/-! ## The engine's own registers (rule R51) -/

/-- The scalar configuration registers, instance id 0x00 (rule R51). -/
structure Engine where
  /-- The oversample factor `F`. -/
  factor : Nat
  rate : Word
  fsi : DWord
  wet1 : Word
  wet2 : Word
  dry : Word
  ew1 : Word
  ew2 : Word
  ertolate : Word
  bassb : Word
  wander : Word
  deriving DecidableEq, Repr

/-- `MODE` (rule R32). -/
inductive Mode where
  | unconfigured
  | bypass
  | active
  deriving DecidableEq, Repr

/-! ## The state -/

/-- The state of the block. -/
structure State where
  /-- `MODE` (rule R32). -/
  mode : Mode
  /-- The engine's scalar registers (rule R51). -/
  eng : Engine
  /-- The instances of the left channel (rule R40). -/
  left : Chan
  /-- The instances of the right channel (rule R40). -/
  right : Chan
  /-- The noise source, id 0x01. -/
  noise : Noise
  /-- The first oscillator, id 0x02. -/
  lfo1 : Lfo
  /-- The second oscillator, id 0x03. -/
  lfo2 : Lfo
  /-- The smoother of `lfo1`, id 0x04. -/
  lfo1Lpf : Iir1
  /-- The smoother of `lfo2`, id 0x05. -/
  lfo2Lpf : Iir1
  /-- The requests that have not been taken yet, in the order they take effect (rule R107). The model's
  own field (log entries 1 and 2). -/
  port : List Request
  /-- The answer to the last command: its status word, then its result words (rules R130 and R137). The
  model's own field (log entry 4). -/
  reply : List Word
  /-- The result of the last internal operation issued by itself. The model's own field (log entry 4). -/
  opResult : List Word
  deriving DecidableEq, Repr

/-! ## Reset values (rule R60) -/

/-- A delay line after reset. -/
def Line.reset : Line := ⟨[], 0, 0⟩

/-- A first-order filter after reset. -/
def Iir1.reset : Iir1 := ⟨0, 0, 0, 0, 0⟩

/-- A biquad after reset. -/
def Bq.reset : Bq := ⟨0, 0, 0, 0, 0, 0, 0, 0, 0⟩

/-- A plain all-pass after reset. -/
def Ap1.reset : Ap1 := ⟨.reset, 0, 0⟩

/-- A modulated all-pass after reset. -/
def Apm.reset : Apm := ⟨[], 0, 0, 0, 0, 0, 0⟩

/-- A 2nd-order all-pass after reset. -/
def Ap2.reset : Ap2 := ⟨.reset, .reset⟩

/-- A 3rd-order all-pass after reset. -/
def Ap3m.reset : Ap3m := ⟨.reset, .reset, .reset⟩

/-- A comb after reset. -/
def Comb.reset : Comb := ⟨.reset, 0⟩

/-- A DC cut after reset. -/
def Dcc.reset : Dcc := ⟨0, 0, 0⟩

/-- The noise source after reset: the generated table, read from its start (rule R305). -/
def Noise.reset : Noise := ⟨noiseTable, 0⟩

/-- An oscillator after reset: the vector (1, 0). -/
def Lfo.reset : Lfo := ⟨0, 0, one32, 0, 0⟩

/-- A channel after reset. -/
def Chan.reset : Chan where
  preWet := .reset
  preDry := .reset
  erLpf := .reset
  erHpf := .reset
  erTap := .reset
  erXdelay := .reset
  erXap := .reset
  osUp := .reset
  osDown := .reset
  dccut := .reset
  diff := .replicate 10 .reset
  crossDelay := .reset
  crossLpf := .reset
  bassAp := .reset
  bassLpf := .reset
  dampLpf := .reset
  dampAp1 := .reset
  dampAp2 := .reset
  dampDelay := .reset
  cbassD1 := .reset
  cbassAp2 := .reset
  cbassD2 := .reset
  cbassAp3 := .reset
  comb := .reset
  outLpf := .reset
  outDelay := .reset
  nTaps := 0
  taps := .replicate 18 ⟨0, 0⟩

/-- The engine's registers after reset (rule R51, reset column). -/
def Engine.reset : Engine := ⟨1, 0, 0, 0, 0, 0, 0, 0, 0, 0, 0⟩

/-- The block right after reset (rules R60, R480 and R481): nothing on the port, nothing answered. -/
def State.reset : State where
  mode := .unconfigured
  eng := .reset
  left := .reset
  right := .reset
  noise := .reset
  lfo1 := .reset
  lfo2 := .reset
  lfo1Lpf := .reset
  lfo2Lpf := .reset
  port := []
  reply := []
  opResult := []

/-! ## Why a step can stop -/

/-- The faults: a false precondition of an internal operation (rules R15 and R455; treatment `fault` of
93_implementation_defined.md U7). No sequence of commands from the host reaches one (rule R16). All are
safe: the model stops where the spec gives no effect. -/
inductive Fault where
  /-- An internal operation whose operand names no instance, or no part of one, of the operation's type
  (rules R40 and R141). Raised by every primitive operation's meaning. Safe. -/
  | wrongInstance
  /-- DL_READ of a line of length 0, which has no legal read (rule R202), or AP1_PROCESS or COMB_PROCESS
  on such a line (rules R261 and R290). Safe. -/
  | emptyLine
  /-- DL_READ at an offset not below the logical length (rule R202). Safe. -/
  | offsetBeyondLength
  /-- An operation on a line whose logical length is above its capacity (rule R455, U7). Safe. -/
  | lengthAboveCapacity
  /-- An access at an index that the buffer does not have (rule R100). Safe. -/
  | indexBeyondBuffer
  /-- APM_PROCESS with `size` or `msize` below 1 (rule R263, U7). Safe. -/
  | emptyWindow
  /-- OS_UP or OS_DOWN with `F < 2`, or the oversampled late network with `F = 0`, which has no last
  sub-step (rules R331, R332 and R382, U7). Safe. -/
  | factorTooSmall
  /-- OS_UP with a sub-step index not below `F` (rule R331). Safe. -/
  | subStepBeyondFactor
  /-- ER_STEP, LATE_STEP, LATE_OS_STEP or ENGINE_SAMPLE outside `MODE = ACTIVE` (rules R350, R380, R382
  and R390). Safe. -/
  | notActive
  deriving DecidableEq, Repr

/-- The refusals: requests with no meaning. Safe: nothing is claimed about them. -/
inductive Refusal where
  /-- An instruction that the model gives no meaning. Raised by no arm of this model. Safe. -/
  | notModelled (mnemonic : String)
  /-- A request of the engine's that spells no internal operation (rule R142: such numbers spell no
  operation), rejected by `step` with the reason the decoder gives. Safe. -/
  | notAnOperation (reason : Status)
  deriving DecidableEq, Repr

end Sys2Proof.Machine
end

