-- ==== Sys2Proof/Machine/Flags.lean ====
section
/-! DEFINITION. The block's only status register is `MODE` (rule R32); it has no other flag and no condition
code, and keeps no floating-point exception flag (rules R11 and R454). Here are its two bits and what is
read from it. -/

namespace Sys2Proof.Machine

/-- The two bits of `MODE`; the value 3 is never held (rule R32). -/
def modeBits : Mode → BitVec 2
  | .unconfigured => 0
  | .bypass => 1
  | .active => 2

/-- Whether a valid environment is configured: `MODE = ACTIVE` (rule R430). -/
def State.isActive (s : State) : Bool := s.mode == .active

/-- The count word QUERY_VALID answers (rule R430). -/
def State.validWord (s : State) : Word := if s.isActive then 1 else 0

end Sys2Proof.Machine
end

