-- ==== Sys2Proof/Machine/Ops.lean ====
section
/-! DEFINITION. The named operations over buffers, channels and answers: BufRead and BufWrite
(rules R100 to R102), the delay line's three operations (rules R200 to R203), the two channels
(rule R14), answering and rejecting a command (rules R130, R137, R450 and R453), which takes the place of
taking an exception (rule R456: nothing traps), and the clearing and keeping of stream state (rule R421). -/

namespace Sys2Proof.Machine

open Sys2Proof.Config (Params)

/-! ## Buffers -/

/-- The word at an index, +0.0 where none is listed. -/
def Memory.read : Memory → Nat → Word
  | [], _ => Memory.unlisted
  | (a, w) :: t, i => if i = a then w else Memory.read t i

/-- The buffer with the word at an index replaced, in the canonical form. -/
def Memory.write : Memory → Nat → Word → Memory
  | [], i, v => if v = Memory.unlisted then [] else [(i, v)]
  | (a, w) :: t, i, v =>
    if i < a then (if v = Memory.unlisted then (a, w) :: t else (i, v) :: (a, w) :: t)
    else if i = a then (if v = Memory.unlisted then t else (a, v) :: t)
    else (a, w) :: Memory.write t i v

/-- `BufRead(inst, i)` of a buffer of `cap` words (rules R100 and R102). -/
def bufRead (cap : Nat) (m : Memory) (i : Nat) : Except Fault Word :=
  if i < cap then .ok (Memory.read m i) else .error .indexBeyondBuffer

/-- `BufWrite(inst, i, v)` of a buffer of `cap` words (rules R100 and R102). -/
def bufWrite (cap : Nat) (m : Memory) (i : Nat) (v : Word) : Except Fault Memory :=
  if i < cap then .ok (Memory.write m i v) else .error .indexBeyondBuffer

/-! ## Delay lines -/

/-- The index of the sample `offset` steps behind the cursor (rules R13, R200 and R202). -/
def lineIndex (d : Line) (offset : Nat) : Nat :=
  (((d.cursor : Int) - (offset : Int)) % (d.size : Int)).toNat

/-- DL_READ (rule R202). -/
def lineRead (cap : Nat) (d : Line) (offset : Nat) : Except Fault Word :=
  if d.size = 0 then .error .emptyLine
  else if cap < d.size then .error .lengthAboveCapacity
  else if offset < d.size then bufRead cap d.buf (lineIndex d offset)
  else .error .offsetBeyondLength

/-- DL_WRITE (rule R201). -/
def lineWrite (cap : Nat) (d : Line) (x : Word) : Except Fault Line :=
  if d.size = 0 then .ok d
  else if cap < d.size then .error .lengthAboveCapacity
  else do
    let b ← bufWrite cap d.buf d.cursor x
    .ok { d with buf := b, cursor := (d.cursor + 1) % d.size }

/-- DL_PROCESS (rule R203). -/
def lineProcess (cap : Nat) (d : Line) (x : Word) : Except Fault (Word × Line) :=
  if d.size = 0 then .ok (x, d)
  else do
    let y ← lineRead cap d 0
    let d' ← lineWrite cap d x
    .ok (y, d')

/-! ## The two channels -/

/-- The instances of a channel. -/
def State.chan (s : State) : Ch → Chan
  | .left => s.left
  | .right => s.right

/-- The state with the instances of a channel replaced. -/
def State.setChan (s : State) (c : Ch) (x : Chan) : State :=
  match c with
  | .left => { s with left := x }
  | .right => { s with right := x }

/-- A stage that both channels run, left first, each on its own instances (rule R14). -/
def bothChans (f : Ch → Chan → Word → Except Fault (Word × Chan)) (s : State) (x : Pair) :
    Except Fault (Pair × State) := do
  let l ← f .left s.left x.l
  let r ← f .right s.right x.r
  .ok (⟨l.1, r.1⟩, { s with left := l.2, right := r.2 })

/-! ## Answers -/

/-- The answer to an accepted command: the status OK, then its result words (rules R130 and R137). -/
def State.accept (s : State) (results : List Word) : State :=
  { s with reply := statusWord .ok :: results }

/-- `reject`: the status word alone, and nothing else changes (rules R450 and R453). -/
def State.reject (s : State) (e : Status) : State :=
  { s with reply := [statusWord e] }

/-- The result of an internal operation (rule R15: an operation's function value). -/
def State.yields (s : State) (results : List Word) : State :=
  { s with opResult := results }

/-- What a meaning answers: the next state, or the fault of a false precondition. -/
def outcomeOf : Except Fault State → Host.Outcome State Fault Refusal
  | .ok s => .next s
  | .error e => .fault e

/-! ## Clearing stream state (rules R42 and R421) -/

/-- A line's stream state cleared. -/
def Line.clear (d : Line) : Line := { d with buf := [], cursor := 0 }

/-- A first-order filter's stream state cleared. -/
def Iir1.clear (f : Iir1) : Iir1 := { f with x1 := 0, y1 := 0 }

/-- A biquad's stream state cleared. -/
def Bq.clear (q : Bq) : Bq := { q with x1 := 0, x2 := 0, y1 := 0, y2 := 0 }

/-- A plain all-pass's stream state cleared. -/
def Ap1.clear (a : Ap1) : Ap1 := { a with line := a.line.clear }

/-- A modulated all-pass's stream state cleared. -/
def Apm.clear (a : Apm) : Apm := { a with buf := [], wpos := 0, rpos := 0 }

/-- A 2nd-order all-pass's stream state cleared. -/
def Ap2.clear (a : Ap2) : Ap2 := ⟨a.s0.clear, a.s1.clear⟩

/-- A 3rd-order all-pass's stream state cleared. -/
def Ap3m.clear (a : Ap3m) : Ap3m := ⟨a.s0.clear, a.s1.clear, a.s2.clear⟩

/-- A comb's stream state cleared. -/
def Comb.clear (c : Comb) : Comb := { c with line := c.line.clear }

/-- A DC cut's stream state cleared. -/
def Dcc.clear (d : Dcc) : Dcc := { d with x1 := 0, y1 := 0 }

/-- The noise cursor cleared; the table is no stream state (rule R42). -/
def Noise.clear (n : Noise) : Noise := { n with npos := 0 }

/-- An oscillator back at (1, 0) with its counter at 0. -/
def Lfo.clear (l : Lfo) : Lfo := { l with re := one32, im := 0, count := 0 }

/-- A channel's stream state cleared. -/
def Chan.clear (x : Chan) : Chan :=
  { x with
    preWet := x.preWet.clear
    preDry := x.preDry.clear
    erLpf := x.erLpf.clear
    erHpf := x.erHpf.clear
    erTap := x.erTap.clear
    erXdelay := x.erXdelay.clear
    erXap := x.erXap.clear
    osUp := x.osUp.clear
    osDown := x.osDown.clear
    dccut := x.dccut.clear
    diff := x.diff.map Apm.clear
    crossDelay := x.crossDelay.clear
    crossLpf := x.crossLpf.clear
    bassAp := x.bassAp.clear
    bassLpf := x.bassLpf.clear
    dampLpf := x.dampLpf.clear
    dampAp1 := x.dampAp1.clear
    dampAp2 := x.dampAp2.clear
    dampDelay := x.dampDelay.clear
    cbassD1 := x.cbassD1.clear
    cbassAp2 := x.cbassAp2.clear
    cbassD2 := x.cbassD2.clear
    cbassAp3 := x.cbassAp3.clear
    comb := x.comb.clear
    outLpf := x.outLpf.clear
    outDelay := x.outDelay.clear }

/-- Every stream state element at its reset value (rules R42 and R421). -/
def State.clearStream (s : State) : State :=
  { s with
    left := s.left.clear
    right := s.right.clear
    noise := s.noise.clear
    lfo1 := s.lfo1.clear
    lfo2 := s.lfo2.clear
    lfo1Lpf := s.lfo1Lpf.clear
    lfo2Lpf := s.lfo2Lpf.clear }

/-! ## Keeping stream state (rule R421, `PRESERVE = 1`) -/

/-- A position reduced modulo a length, 0 for a length of 0. -/
def reduce (n len : Nat) : Nat := if len = 0 then 0 else n % len

/-- A line's cursor reduced modulo its length. -/
def Line.reduce (d : Line) : Line := { d with cursor := Sys2Proof.Machine.reduce d.cursor d.size }

/-- A plain all-pass's cursor reduced. -/
def Ap1.reduce (a : Ap1) : Ap1 := { a with line := a.line.reduce }

/-- A modulated all-pass's two positions reduced modulo `size + msize`. -/
def Apm.reduce (a : Apm) : Apm :=
  { a with
    wpos := Sys2Proof.Machine.reduce a.wpos (a.size + a.msize)
    rpos := Sys2Proof.Machine.reduce a.rpos (a.size + a.msize) }

/-- A 2nd-order all-pass's cursors reduced. -/
def Ap2.reduce (a : Ap2) : Ap2 := ⟨a.s0.reduce, a.s1.reduce⟩

/-- A 3rd-order all-pass's positions reduced. -/
def Ap3m.reduce (a : Ap3m) : Ap3m := ⟨a.s0.reduce, a.s1.reduce, a.s2.reduce⟩

/-- A comb's cursor reduced. -/
def Comb.reduce (c : Comb) : Comb := { c with line := c.line.reduce }

/-- Every position of a channel reduced. -/
def Chan.reduce (x : Chan) : Chan :=
  { x with
    preWet := x.preWet.reduce
    preDry := x.preDry.reduce
    erTap := x.erTap.reduce
    erXdelay := x.erXdelay.reduce
    erXap := x.erXap.reduce
    diff := x.diff.map Apm.reduce
    crossDelay := x.crossDelay.reduce
    dampAp1 := x.dampAp1.reduce
    dampAp2 := x.dampAp2.reduce
    dampDelay := x.dampDelay.reduce
    cbassD1 := x.cbassD1.reduce
    cbassAp2 := x.cbassAp2.reduce
    cbassD2 := x.cbassD2.reduce
    cbassAp3 := x.cbassAp3.reduce
    comb := x.comb.reduce
    outDelay := x.outDelay.reduce }

/-- Every cursor, `wpos` and `rpos` reduced modulo its logical length (rules R205 and R421). -/
def State.reduceCursors (s : State) : State :=
  { s with left := s.left.reduce, right := s.right.reduce }

end Sys2Proof.Machine
end

