-- ==== Sys2Proof/Machine/Operands.lean ====
section
/-! DEFINITION. The operands of the internal operations: reading and replacing the part of the state that an
instance number, or a part of an instance, names (rules R40, R141, R201, R261, R263). -/

namespace Sys2Proof.Machine

open Sys2Proof.Config (Params)

/-! ## Delay lines -/

/-- A delay line of a channel. -/
def Chan.line (x : Chan) : LineRole → Line
  | .dl .preWet => x.preWet
  | .dl .preDry => x.preDry
  | .dl .erTap => x.erTap
  | .dl .erXdelay => x.erXdelay
  | .dl .crossDelay => x.crossDelay
  | .dl .dampDelay => x.dampDelay
  | .dl .cbassD1 => x.cbassD1
  | .dl .cbassD2 => x.cbassD2
  | .dl .outDelay => x.outDelay
  | .erXap => x.erXap.line
  | .cbassAp2S0 => x.cbassAp2.s0.line
  | .cbassAp2S1 => x.cbassAp2.s1.line
  | .cbassAp3S0 => x.cbassAp3.s0.line
  | .cbassAp3S2 => x.cbassAp3.s2.line
  | .comb => x.comb.line

/-- A channel with a delay line replaced. -/
def Chan.setLine (x : Chan) (r : LineRole) (d : Line) : Chan :=
  match r with
  | .dl .preWet => { x with preWet := d }
  | .dl .preDry => { x with preDry := d }
  | .dl .erTap => { x with erTap := d }
  | .dl .erXdelay => { x with erXdelay := d }
  | .dl .crossDelay => { x with crossDelay := d }
  | .dl .dampDelay => { x with dampDelay := d }
  | .dl .cbassD1 => { x with cbassD1 := d }
  | .dl .cbassD2 => { x with cbassD2 := d }
  | .dl .outDelay => { x with outDelay := d }
  | .erXap => { x with erXap := { x.erXap with line := d } }
  | .cbassAp2S0 => { x with cbassAp2 := { x.cbassAp2 with s0 := { x.cbassAp2.s0 with line := d } } }
  | .cbassAp2S1 => { x with cbassAp2 := { x.cbassAp2 with s1 := { x.cbassAp2.s1 with line := d } } }
  | .cbassAp3S0 => { x with cbassAp3 := { x.cbassAp3 with s0 := { x.cbassAp3.s0 with line := d } } }
  | .cbassAp3S2 => { x with cbassAp3 := { x.cbassAp3 with s2 := { x.cbassAp3.s2 with line := d } } }
  | .comb => { x with comb := { x.comb with line := d } }

/-! ## All-pass sections -/

/-- A plain all-pass of a channel. -/
def Chan.ap1 (x : Chan) : Ap1Role → Ap1
  | .erXap => x.erXap
  | .cbassAp2S0 => x.cbassAp2.s0
  | .cbassAp2S1 => x.cbassAp2.s1
  | .cbassAp3S0 => x.cbassAp3.s0
  | .cbassAp3S2 => x.cbassAp3.s2

/-- A channel with a plain all-pass replaced. -/
def Chan.setAp1 (x : Chan) (r : Ap1Role) (a : Ap1) : Chan :=
  match r with
  | .erXap => { x with erXap := a }
  | .cbassAp2S0 => { x with cbassAp2 := { x.cbassAp2 with s0 := a } }
  | .cbassAp2S1 => { x with cbassAp2 := { x.cbassAp2 with s1 := a } }
  | .cbassAp3S0 => { x with cbassAp3 := { x.cbassAp3 with s0 := a } }
  | .cbassAp3S2 => { x with cbassAp3 := { x.cbassAp3 with s2 := a } }

/-- A modulated all-pass of a channel. -/
def Chan.apm (x : Chan) : ApmRole → Apm
  | .diff i => x.diff[i]
  | .dampAp1 => x.dampAp1
  | .dampAp2 => x.dampAp2
  | .cbassAp3S1 => x.cbassAp3.s1

/-- A channel with a modulated all-pass replaced. -/
def Chan.setApm (x : Chan) (r : ApmRole) (a : Apm) : Chan :=
  match r with
  | .diff i => { x with diff := x.diff.set i.val a i.isLt }
  | .dampAp1 => { x with dampAp1 := a }
  | .dampAp2 => { x with dampAp2 := a }
  | .cbassAp3S1 => { x with cbassAp3 := { x.cbassAp3 with s1 := a } }

/-! ## Filters -/

/-- A first-order filter of a channel. -/
def Chan.iir1 (x : Chan) : Iir1Role → Iir1
  | .erLpf => x.erLpf
  | .erHpf => x.erHpf
  | .crossLpf => x.crossLpf
  | .dampLpf => x.dampLpf

/-- A channel with a first-order filter replaced. -/
def Chan.setIir1 (x : Chan) (r : Iir1Role) (f : Iir1) : Chan :=
  match r with
  | .erLpf => { x with erLpf := f }
  | .erHpf => { x with erHpf := f }
  | .crossLpf => { x with crossLpf := f }
  | .dampLpf => { x with dampLpf := f }

/-- A biquad of a channel. -/
def Chan.bq (x : Chan) : BqRole → Bq
  | .osUp => x.osUp
  | .osDown => x.osDown
  | .bassAp => x.bassAp
  | .bassLpf => x.bassLpf
  | .outLpf => x.outLpf

/-- A channel with a biquad replaced. -/
def Chan.setBq (x : Chan) (r : BqRole) (q : Bq) : Chan :=
  match r with
  | .osUp => { x with osUp := q }
  | .osDown => { x with osDown := q }
  | .bassAp => { x with bassAp := q }
  | .bassLpf => { x with bassLpf := q }
  | .outLpf => { x with outLpf := q }

/-! ## The state -/

/-- A first-order filter: a channel's, or an LFO's smoother. -/
def State.iir1 (s : State) : Iir1Ref → Iir1
  | .chan c r => (s.chan c).iir1 r
  | .lfo1 => s.lfo1Lpf
  | .lfo2 => s.lfo2Lpf

/-- The state with a first-order filter replaced. -/
def State.setIir1 (s : State) (r : Iir1Ref) (f : Iir1) : State :=
  match r with
  | .chan c r => s.setChan c ((s.chan c).setIir1 r f)
  | .lfo1 => { s with lfo1Lpf := f }
  | .lfo2 => { s with lfo2Lpf := f }

/-- An oscillator. -/
def State.lfo (s : State) : LfoRef → Lfo
  | .lfo1 => s.lfo1
  | .lfo2 => s.lfo2

/-- The state with an oscillator replaced. -/
def State.setLfo (s : State) (r : LfoRef) (l : Lfo) : State :=
  match r with
  | .lfo1 => { s with lfo1 := l }
  | .lfo2 => { s with lfo2 := l }

/-- The state with a delay line of a channel replaced. -/
def State.setLine (s : State) (c : Ch) (r : LineRole) (d : Line) : State :=
  s.setChan c ((s.chan c).setLine r d)

/-- The state with a plain all-pass of a channel replaced. -/
def State.setAp1 (s : State) (c : Ch) (r : Ap1Role) (a : Ap1) : State :=
  s.setChan c ((s.chan c).setAp1 r a)

/-- The state with a modulated all-pass of a channel replaced. -/
def State.setApm (s : State) (c : Ch) (r : ApmRole) (a : Apm) : State :=
  s.setChan c ((s.chan c).setApm r a)

/-- The state with a biquad of a channel replaced. -/
def State.setBq (s : State) (c : Ch) (r : BqRole) (q : Bq) : State :=
  s.setChan c ((s.chan c).setBq r q)

/-- What an operand names, or the fault of an operand that names nothing of the operation's type
(rule R141). -/
def named {α : Type} (r : Option α) : Except Fault α :=
  match r with
  | some a => .ok a
  | none => .error .wrongInstance

end Sys2Proof.Machine
end

