-- ==== Sys2Proof/Machine/Deriver.lean ====
section
/-! DEFINITION. The parameter deriver (49_configuration.md section 1; coefficient formulas of
41_iir_first_order.md and 42_biquad.md): every configuration register from a parameter vector. -/

namespace Sys2Proof.Machine

open Sys2Proof.Config (Params TopoCh)

/-! ## Helpers (rule R405) -/

/-- TOS: seconds to samples, between `lo` and `hi` (rule R405). -/
def tos (t fs : DWord) (lo hi : Nat) : Nat :=
  let v := mul64 t fs
  if isNaN64 v || lt64 v 0 then lo
  else if le64 (nat64 hi) v then hi
  else
    match val64 v with
    | .fin neg m e => min (max (floorFin neg m e).toNat lo) hi
    | _ => lo

/-- DECAY: the reverberation time as a coefficient of a stage of `n` samples (rule R405). -/
def decayOf (P : Params) (rt60 : Word) (fsi : DWord) (n : Nat) : Word :=
  narrow (P.fnPow10 (div64 (mul64 0xC008000000000000 (nat64 n)) (mul64 (widen rt60) fsi)))

/-- The oversample factor (rules R336 and R404): truncated and clamped to 1..4, 1 for a NaN. -/
def factorOf (w : Word) : Nat :=
  match val32 w with
  | .nan => 1
  | .inf neg => if neg then 1 else osMax
  | .fin neg m e => min (max (truncFin neg m e).toNat 1) osMax

/-! ## Filter coefficients -/

/-- The pole `p` of a one-pole filter (rules R221 and R222). -/
def poleOf (P : Params) (fc fs : DWord) : DWord := P.fnExp (div64 (neg64 (mul64 twoPi fc)) fs)

/-- IIR1_LPF (rule R221): the stream state is kept. -/
def iir1Lpf (P : Params) (fc fs : DWord) (f : Iir1) : Iir1 :=
  let p := poleOf P fc fs
  { f with b0 := narrow (sub64 one64 p), b1 := 0, a1 := narrow p }

/-- IIR1_HPF (rule R222): `b1` is the exact negation of `b0`. -/
def iir1Hpf (P : Params) (fc fs : DWord) (f : Iir1) : Iir1 :=
  let p := poleOf P fc fs
  let b0 := narrow (div64 (add64 one64 p) two64)
  { f with b0 := b0, b1 := neg32 b0, a1 := narrow p }

/-- The angle, its cosine, `alpha` and `a0` of the biquad formulas (rules R241 and R242). -/
structure BqDesign where
  cw : DWord
  alpha : DWord
  a0 : DWord

/-- The common part of rules R241 and R242. -/
def bqDesign (P : Params) (fc fs : DWord) : BqDesign :=
  let w0 := div64 (mul64 twoPi fc) fs
  let alpha := div64 (P.fnSin w0) (mul64 two64 bqQ)
  ⟨P.fnCos w0, alpha, add64 one64 alpha⟩

/-- BQ_LPF (rule R241): the stream state is kept. -/
def bqLpf (P : Params) (fc fs : DWord) (q : Bq) : Bq :=
  let d := bqDesign P fc fs
  let b0 := narrow (div64 (div64 (sub64 one64 d.cw) two64) d.a0)
  { q with
    b0 := b0
    b1 := narrow (div64 (sub64 one64 d.cw) d.a0)
    b2 := b0
    a1 := narrow (div64 (mul64 (neg64 two64) d.cw) d.a0)
    a2 := narrow (div64 (sub64 one64 d.alpha) d.a0) }

/-- BQ_AP (rule R242): the stream state is kept. -/
def bqAllpass (P : Params) (fc fs : DWord) (q : Bq) : Bq :=
  let d := bqDesign P fc fs
  let b0 := narrow (div64 (sub64 one64 d.alpha) d.a0)
  let b1 := narrow (div64 (mul64 (neg64 two64) d.cw) d.a0)
  { q with
    b0 := b0
    b1 := b1
    b2 := narrow (div64 (add64 one64 d.alpha) d.a0)
    a1 := b1
    a2 := b0 }

/-! ## Registers -/

/-- The engine's scalars (rule R404). -/
def deriveEngine (P : Params) (p : ParamVec) : Engine :=
  let f := factorOf p.oversample
  let w := P.fnPow10 (div64 (widen p.wet) twenty64)
  { factor := f
    rate := p.rate
    fsi := mul64 (widen p.rate) (nat64 f)
    wet1 := narrow (mul64 w (add64 (div64 (widen p.width) two64) 0x3FE0000000000000))
    wet2 := narrow (mul64 w (div64 (sub64 one64 (widen p.width)) two64))
    dry := narrow (P.fnPow10 (div64 (widen p.dry) twenty64))
    ew1 := narrow (add64 (div64 (widen p.erefwidth) two64) 0x3FE0000000000000)
    ew2 := narrow (div64 (sub64 one64 (widen p.erefwidth)) two64)
    ertolate := p.ertolate
    bassb := p.bassb
    wander := p.wander }

/-- A line's logical length set. -/
def Line.withSize (d : Line) (n : Nat) : Line := { d with size := n }

/-- A plain all-pass of the late network (rule R406): its length, feedback and decay. -/
def setLateAp1 (P : Params) (p : ParamVec) (fsi t : DWord) (cap : Nat) (g : Word) (a : Ap1) : Ap1 :=
  let n := tos t fsi 1 cap
  { line := a.line.withSize n, g := g, decay := decayOf P p.rt60 fsi n }

/-- SET_APM (rule R407): the length first, then the window in what is left of the capacity. -/
def setApmRegs (P : Params) (p : ParamVec) (fsi ts tm : DWord) (g : Word) (cap : Nat) (a : Apm) : Apm :=
  let n := tos ts fsi 1 (cap - 1)
  { a with
    size := n
    msize := tos (mul64 (widen p.wander) tm) fsi 1 (cap - n)
    g := g
    decay := decayOf P p.rt60 fsi n }

/-- The length of the wet path's input delay (rule R408): a delay of either zero, or above, is here. -/
def preWetSize (P : Params) (p : ParamVec) : Nat :=
  if le64 0 (widen p.delay) then tos (widen p.delay) (widen p.rate) 0 P.capPre else 0

/-- The length of the dry path's input delay (rule R408): a negative delay, or a NaN. -/
def preDrySize (P : Params) (p : ParamVec) : Nat :=
  if le64 0 (widen p.delay) then 0 else tos (neg64 (widen p.delay)) (widen p.rate) 0 P.capPre

/-- The tap registers of a channel (rule R409). -/
def deriveTap (P : Params) (p : ParamVec) (t : TopoCh) (k : Nat) : Tap :=
  match t.erTaps[k]? with
  | some x =>
    ⟨tos (mul64 x.1 (widen p.ereffactor)) (widen p.rate) 1 (P.capErTap - 1), x.2⟩
  | none => ⟨0, 0⟩

/-- The number of taps of a channel; `TOPO` has at most 18 (rule R9). -/
def tapCount (t : TopoCh) : Fin 19 := ⟨min t.erTaps.length 18, by omega⟩

/-- A comb's registers (rule R406). -/
def setComb (P : Params) (p : ParamVec) (fsi t : DWord) (cap : Nat) (c : Comb) : Comb :=
  let n := tos t fsi 1 cap
  { line := c.line.withSize n, fb := decayOf P p.rt60 fsi n }

/-- Every configuration register of a channel (rules R406 to R412), `fsi` being the internal rate. -/
def deriveChan (P : Params) (p : ParamVec) (fsi : DWord) (t : TopoCh) (x : Chan) : Chan :=
  let rate := widen p.rate
  let er := widen p.ereffactor
  { x with
    preWet := x.preWet.withSize (preWetSize P p)
    preDry := x.preDry.withSize (preDrySize P p)
    erLpf := iir1Lpf P (widen p.inputlpf) rate x.erLpf
    erHpf := iir1Hpf P P.topo.erHpfHz rate x.erHpf
    erTap := x.erTap.withSize P.capErTap
    erXdelay := x.erXdelay.withSize (tos (mul64 t.erXdelayS er) rate 0 P.capErXdelay)
    erXap :=
      { line := x.erXap.line.withSize (tos (mul64 t.erXapS er) rate 1 P.capErXap)
        g := P.topo.erXapG
        decay := one32 }
    osUp := bqLpf P (mul64 osCutoffRatio rate) fsi x.osUp
    osDown := bqLpf P (mul64 osCutoffRatio rate) fsi x.osDown
    dccut := { x.dccut with r := narrow (P.fnExp (div64 (neg64 (mul64 twoPi dccutHz)) fsi)) }
    diff := Vector.ofFn fun i : Fin 10 =>
      setApmRegs P p fsi t.diffS[i] t.diffModS[i] P.topo.diffG[i] P.capDiff[i] x.diff[i]
    crossDelay := x.crossDelay.withSize (tos t.crossS fsi 1 P.capCross)
    crossLpf := iir1Lpf P (widen p.damplpf) fsi x.crossLpf
    bassAp := bqAllpass P (widen p.basslpf) fsi x.bassAp
    bassLpf := bqLpf P (widen p.basslpf) fsi x.bassLpf
    dampLpf := iir1Lpf P (widen p.damplpf) fsi x.dampLpf
    dampAp1 := setApmRegs P p fsi t.dampAp1S t.dampAp1ModS P.topo.dampAp1G P.capDampAp1 x.dampAp1
    dampAp2 := setApmRegs P p fsi t.dampAp2S t.dampAp2ModS P.topo.dampAp2G P.capDampAp2 x.dampAp2
    dampDelay := x.dampDelay.withSize (tos t.dampDelayS fsi 0 P.capDampDelay)
    cbassD1 := x.cbassD1.withSize (tos t.cbassD1S fsi 0 P.capCbassD1)
    cbassAp2 :=
      { s0 := setLateAp1 P p fsi t.cbassAp2S0 P.capCbassAp2S0 P.topo.cbassAp2G0 x.cbassAp2.s0
        s1 := setLateAp1 P p fsi t.cbassAp2S1 P.capCbassAp2S1 P.topo.cbassAp2G1 x.cbassAp2.s1 }
    cbassD2 := x.cbassD2.withSize (tos t.cbassD2S fsi 0 P.capCbassD2)
    cbassAp3 :=
      { s0 := setLateAp1 P p fsi t.cbassAp3S0 P.capCbassAp3S0 P.topo.cbassAp3G0 x.cbassAp3.s0
        s1 := setApmRegs P p fsi t.cbassAp3S1 t.cbassAp3ModS P.topo.cbassAp3G1 P.capCbassAp3S1 x.cbassAp3.s1
        s2 := setLateAp1 P p fsi t.cbassAp3S2 P.capCbassAp3S2 P.topo.cbassAp3G2 x.cbassAp3.s2 }
    comb := setComb P p fsi t.combS P.capComb x.comb
    outLpf := bqLpf P (widen p.outputlpf) fsi x.outLpf
    outDelay := x.outDelay.withSize (tos t.outDelayS fsi 0 P.capOutDelay)
    nTaps := tapCount t
    taps := Vector.ofFn fun k : Fin 18 => deriveTap P p t k.val }

/-- An oscillator's rotation (rule R413). -/
def deriveLfo (P : Params) (w : DWord) (l : Lfo) : Lfo :=
  { l with c := narrow (P.fnCos w), s := narrow (P.fnSin w) }

/-- Every configuration register by the formulas (rules R404 to R413 and R415). -/
def deriveFormulas (P : Params) (p : ParamVec) (s : State) : State :=
  let e := deriveEngine P p
  let spin := widen p.spin
  { s with
    eng := e
    left := deriveChan P p e.fsi P.topo.left s.left
    right := deriveChan P p e.fsi P.topo.right s.right
    lfo1 := deriveLfo P (div64 (mul64 twoPi spin) e.fsi) s.lfo1
    lfo2 := deriveLfo P (div64 (mul64 twoPi (mul64 spin lfo2Ratio)) e.fsi) s.lfo2
    lfo1Lpf := iir1Lpf P lfoLpfHz e.fsi s.lfo1Lpf
    lfo2Lpf := iir1Lpf P lfoLpfHz e.fsi s.lfo2Lpf }

/-! ## Vectors out of range (rule R403)

The structural registers (the factor, every length, every offset) are those of the formulas, with their
clamps; the numeric value of every binary32 or binary64 configuration register is unspecified, and is a
free value of the vector and the register (log entry 9). -/

open Sys2Proof.Config (unspecified32 unspecified64)

/-- A first-order filter's coefficients left open. -/
def Iir1.unspecified (u : Nat → Word) (f : Iir1) : Iir1 := { f with b0 := u 0, b1 := u 1, a1 := u 2 }

/-- A biquad's coefficients left open. -/
def Bq.unspecified (u : Nat → Word) (q : Bq) : Bq :=
  { q with b0 := u 0, b1 := u 1, b2 := u 2, a1 := u 3, a2 := u 4 }

/-- A plain all-pass's feedback and decay left open. -/
def Ap1.unspecified (u : Nat → Word) (a : Ap1) : Ap1 := { a with g := u 0, decay := u 1 }

/-- A modulated all-pass's feedback and decay left open. -/
def Apm.unspecified (u : Nat → Word) (a : Apm) : Apm := { a with g := u 0, decay := u 1 }

/-- The engine's scalars left open, but for the factor. -/
def unspecifiedEngine (p : ParamVec) (e : Engine) : Engine :=
  let u := unspecified32 p 0x00 0
  { factor := e.factor
    rate := u 0
    fsi := unspecified64 p
    wet1 := u 1
    wet2 := u 2
    dry := u 3
    ew1 := u 4
    ew2 := u 5
    ertolate := u 6
    bassb := u 7
    wander := u 8 }

/-- The numeric registers of a channel left open. The tap gains belong to the engine (id 0x00): section
1 for the left channel, 2 for the right. -/
def unspecifiedChan (p : ParamVec) (c : Ch) (x : Chan) : Chan :=
  let u := unspecified32 p
  { x with
    erLpf := x.erLpf.unspecified (u (iir1Id c .erLpf) 0)
    erHpf := x.erHpf.unspecified (u (iir1Id c .erHpf) 0)
    erXap := x.erXap.unspecified (u (pairId 0x1C c) 0)
    osUp := x.osUp.unspecified (u (bqId c .osUp) 0)
    osDown := x.osDown.unspecified (u (bqId c .osDown) 0)
    dccut := { x.dccut with r := u (pairId 0x22 c) 0 0 }
    diff := Vector.ofFn fun i : Fin 10 => x.diff[i].unspecified (u (apmId c (.diff i)) 0)
    crossLpf := x.crossLpf.unspecified (u (iir1Id c .crossLpf) 0)
    bassAp := x.bassAp.unspecified (u (bqId c .bassAp) 0)
    bassLpf := x.bassLpf.unspecified (u (bqId c .bassLpf) 0)
    dampLpf := x.dampLpf.unspecified (u (iir1Id c .dampLpf) 0)
    dampAp1 := x.dampAp1.unspecified (u (apmId c .dampAp1) 0)
    dampAp2 := x.dampAp2.unspecified (u (apmId c .dampAp2) 0)
    cbassAp2 :=
      { s0 := x.cbassAp2.s0.unspecified (u (pairId 0x62 c) 0)
        s1 := x.cbassAp2.s1.unspecified (u (pairId 0x62 c) 1) }
    cbassAp3 :=
      { s0 := x.cbassAp3.s0.unspecified (u (pairId 0x66 c) 0)
        s1 := x.cbassAp3.s1.unspecified (u (pairId 0x66 c) 1)
        s2 := x.cbassAp3.s2.unspecified (u (pairId 0x66 c) 2) }
    comb := { x.comb with fb := u (pairId 0x68 c) 0 0 }
    outLpf := x.outLpf.unspecified (u (bqId c .outLpf) 0)
    taps := Vector.ofFn fun k : Fin 18 =>
      { x.taps[k] with gain := u 0x00 (match c with | .left => 1 | .right => 2) k.val } }

/-- The numeric configuration registers left open (rule R403). -/
def unspecifiedRegs (p : ParamVec) (s : State) : State :=
  { s with
    eng := unspecifiedEngine p s.eng
    left := unspecifiedChan p .left s.left
    right := unspecifiedChan p .right s.right
    lfo1 := { s.lfo1 with c := unspecified32 p 0x02 0 0, s := unspecified32 p 0x02 0 1 }
    lfo2 := { s.lfo2 with c := unspecified32 p 0x03 0 0, s := unspecified32 p 0x03 0 1 }
    lfo1Lpf := s.lfo1Lpf.unspecified (unspecified32 p 0x04 0)
    lfo2Lpf := s.lfo2Lpf.unspecified (unspecified32 p 0x05 0) }

/-- DERIVE (rules R400, R403 and R415): every configuration register, no stream state. -/
def derive (P : Params) (p : ParamVec) (s : State) : State :=
  let s' := deriveFormulas P p s
  if inRange p then s' else unspecifiedRegs p s'

/-- DERIVE as an instruction (rule R415). -/
def execDerive (p : ParamVec) (s : State) : Host.Outcome State Fault Refusal :=
  .next ((derive params p s).yields [])

end Sys2Proof.Machine
end

