-- ==== Sys2Proof/Machine/CombFilter.lean ====
section
/-! DEFINITION. The feedback comb (44_comb.md). -/

namespace Sys2Proof.Machine

/-- COMB_PROCESS (rule R290). -/
def combProcess (cap : Nat) (c : Comb) (x : Word) : Except Fault (Word × Comb) := do
  let y ← lineRead cap c.line 0
  let d ← lineWrite cap c.line (add32 x (mul32 c.fb y))
  .ok (y, { c with line := d })

/-- COMB_PROCESS as an instruction (rule R290). -/
def execCombProcess (i : InstId) (x : Word) (s : State) : Host.Outcome State Fault Refusal :=
  outcomeOf do
    let c ← named (combOfId i)
    let y ← combProcess (lineCap params .comb) (s.chan c).comb x
    .ok ((s.setChan c { s.chan c with comb := y.2 }).yields [y.1])

end Sys2Proof.Machine
end

