-- ==== Sys2Proof/Machine/Allpass.lean ====
section
/-! DEFINITION. The all-pass family (43_allpass.md). -/

namespace Sys2Proof.Machine

open Sys2Proof.Config (Params)

/-- What an all-pass section computes: its output `y` and the word `v` it stores (rule R260). -/
structure Section where
  y : Word
  v : Word
  deriving DecidableEq, Repr

/-- The Schroeder section (rule R260), from the word read, the input, the feedback and the decay. -/
def apSection (r x g decay : Word) : Section :=
  let d := mul32 decay r
  let v := add32 x (mul32 g d)
  ⟨sub32 d (mul32 g v), v⟩

/-- AP1_PROCESS (rule R261). -/
def ap1Process (cap : Nat) (a : Ap1) (x : Word) : Except Fault (Word × Ap1) := do
  let r ← lineRead cap a.line 0
  let t := apSection r x a.g a.decay
  let d ← lineWrite cap a.line t.v
  .ok (t.y, { a with line := d })

/-- MOD_OFFSET (rule R262): the offset of a modulation input in a window of `M` slots. -/
def modOffset (m : Word) (M : Nat) : Nat :=
  let t := mul32 (mul32 (add32 m one32) 0x3F000000) (nat32 M)
  if isNaN32 t || le32 t 0 then 0
  else if le32 (nat32 M) t then M - 1
  else
    match val32 t with
    | .fin neg n e => (floorFin neg n e).toNat
    | _ => 0

/-- APM_PROCESS (rule R263), with its preconditions. -/
def apmProcess (cap : Nat) (a : Apm) (x m : Word) : Except Fault (Word × Apm) :=
  if a.size = 0 ∨ a.msize = 0 then .error .emptyWindow
  else if cap < a.size + a.msize then .error .lengthAboveCapacity
  else do
    let rpos := (a.wpos + a.msize - modOffset m a.msize) % (a.size + a.msize)
    let r ← bufRead cap a.buf rpos
    let t := apSection r x a.g a.decay
    let b ← bufWrite cap a.buf a.wpos t.v
    .ok (t.y, { a with buf := b, rpos := rpos, wpos := (a.wpos + 1) % (a.size + a.msize) })

/-- AP2_PROCESS (rule R264): two plain sections in series. -/
def ap2Process (P : Params) (a : Ap2) (x : Word) : Except Fault (Word × Ap2) := do
  let t ← ap1Process (lineCap P .cbassAp2S0) a.s0 x
  let y ← ap1Process (lineCap P .cbassAp2S1) a.s1 t.1
  .ok (y.1, ⟨t.2, y.2⟩)

/-- AP3M_PROCESS (rule R265): plain, modulated, plain. -/
def ap3mProcess (P : Params) (a : Ap3m) (x m : Word) : Except Fault (Word × Ap3m) := do
  let t0 ← ap1Process (lineCap P .cbassAp3S0) a.s0 x
  let t1 ← apmProcess (apmCap P .cbassAp3S1) a.s1 t0.1 m
  let y ← ap1Process (lineCap P .cbassAp3S2) a.s2 t1.1
  .ok (y.1, ⟨t0.2, t1.2, y.2⟩)

/-- AP1_PROCESS as an instruction (rule R261). -/
def execAp1Process (a : Place) (x : Word) (s : State) : Host.Outcome State Fault Refusal :=
  outcomeOf do
    let r ← named (ap1OfPlace a)
    let y ← ap1Process (lineCap params r.2.line) ((s.chan r.1).ap1 r.2) x
    .ok ((s.setAp1 r.1 r.2 y.2).yields [y.1])

/-- APM_PROCESS as an instruction (rule R263). -/
def execApmProcess (a : Place) (x m : Word) (s : State) : Host.Outcome State Fault Refusal :=
  outcomeOf do
    let r ← named (apmOfPlace a)
    let y ← apmProcess (apmCap params r.2) ((s.chan r.1).apm r.2) x m
    .ok ((s.setApm r.1 r.2 y.2).yields [y.1])

/-- AP2_PROCESS as an instruction (rule R264). -/
def execAp2Process (a : InstId) (x : Word) (s : State) : Host.Outcome State Fault Refusal :=
  outcomeOf do
    let c ← named (ap2OfId a)
    let y ← ap2Process params (s.chan c).cbassAp2 x
    .ok ((s.setChan c { s.chan c with cbassAp2 := y.2 }).yields [y.1])

/-- AP3M_PROCESS as an instruction (rule R265). -/
def execAp3mProcess (a : InstId) (x m : Word) (s : State) : Host.Outcome State Fault Refusal :=
  outcomeOf do
    let c ← named (ap3mOfId a)
    let y ← ap3mProcess params (s.chan c).cbassAp3 x m
    .ok ((s.setChan c { s.chan c with cbassAp3 := y.2 }).yields [y.1])

end Sys2Proof.Machine
end

