-- ==== Sys2Proof/Machine/Filters.lean ====
section
/-! DEFINITION. The first-order filter, the biquad and the DC cut (41_iir_first_order.md, 42_biquad.md,
46_dccut_oversampler.md section 1). -/

namespace Sys2Proof.Machine

/-- IIR1_PROCESS (rule R220): the output, and the filter with its previous input and output updated. -/
def iir1Process (f : Iir1) (x : Word) : Word × Iir1 :=
  let y := add32 (add32 (mul32 f.b0 x) (mul32 f.b1 f.x1)) (mul32 f.a1 f.y1)
  (y, { f with x1 := x, y1 := y })

/-- BQ_PROCESS (rule R240), direct form I. -/
def bqProcess (q : Bq) (x : Word) : Word × Bq :=
  let y :=
    sub32
      (sub32 (add32 (add32 (mul32 q.b0 x) (mul32 q.b1 q.x1)) (mul32 q.b2 q.x2)) (mul32 q.a1 q.y1))
      (mul32 q.a2 q.y2)
  (y, { q with x2 := q.x1, x1 := x, y2 := q.y1, y1 := y })

/-- DCCUT_PROCESS (rule R330). -/
def dccProcess (d : Dcc) (x : Word) : Word × Dcc :=
  let y := add32 (sub32 x d.x1) (mul32 d.r d.y1)
  (y, { d with x1 := x, y1 := y })

/-- IIR1_PROCESS as an instruction (rule R220). -/
def execIir1Process (f : InstId) (x : Word) (s : State) : Host.Outcome State Fault Refusal :=
  outcomeOf do
    let r ← named (iir1OfId f)
    let y := iir1Process (s.iir1 r) x
    .ok ((s.setIir1 r y.2).yields [y.1])

/-- BQ_PROCESS as an instruction (rule R240). -/
def execBqProcess (q : InstId) (x : Word) (s : State) : Host.Outcome State Fault Refusal :=
  outcomeOf do
    let r ← named (bqOfId q)
    let y := bqProcess ((s.chan r.1).bq r.2) x
    .ok ((s.setBq r.1 r.2 y.2).yields [y.1])

/-- DCCUT_PROCESS as an instruction (rule R330). -/
def execDccutProcess (d : InstId) (x : Word) (s : State) : Host.Outcome State Fault Refusal :=
  outcomeOf do
    let c ← named (dccOfId d)
    let y := dccProcess (s.chan c).dccut x
    .ok ((s.setChan c { s.chan c with dccut := y.2 }).yields [y.1])

end Sys2Proof.Machine
end

