-- ==== Sys2Proof/Machine/EarlyReflection.lean ====
section
/-! DEFINITION. The early-reflection network (47_early_reflection.md). -/

namespace Sys2Proof.Machine

open Sys2Proof.Config (Params)

/-- The four words ER_STEP answers: the early reflections and the shaped input (rule R350). -/
structure ErResult where
  /-- The early reflections `eL`, `eR`. -/
  e : Pair
  /-- The shaped input `aL`, `aR`. -/
  a : Pair
  deriving DecidableEq, Repr

/-- Input shaping of a channel: low-pass, then high-pass (rule R350). -/
def erShape (x : Chan) (v : Word) : Word × Chan :=
  let l := iir1Process x.erLpf v
  let h := iir1Process x.erHpf l.1
  (h.1, { x with erLpf := l.2, erHpf := h.2 })

/-- A channel's tap sum from `t` on, in tap order (rule R350). -/
def tapSum (cap : Nat) (d : Line) : List Tap → Word → Except Fault Word
  | [], t => .ok t
  | k :: ks, t => do
    let w ← lineRead cap d k.off
    tapSum cap d ks (add32 t (mul32 k.gain w))

/-- The tap sum of a channel over its `ER_NTAPS` taps, from +0.0 (rule R350). -/
def erTaps (P : Params) (x : Chan) : Except Fault Word :=
  tapSum (lineCap P (.dl .erTap)) x.erTap (x.taps.toList.take x.nTaps.val) 0

/-- The write of a channel's shaped input into its tap line (rule R350). -/
def erStore (P : Params) (x : Chan) (a : Word) : Except Fault (Word × Chan) := do
  let d ← lineWrite (lineCap P (.dl .erTap)) x.erTap a
  .ok (a, { x with erTap := d })

/-- The cross pair of a channel, on the other channel's tap sum (rules R350 and R352). -/
def erCross (P : Params) (x : Chan) (t : Word) : Except Fault (Word × Chan) := do
  let d ← lineProcess (lineCap P (.dl .erXdelay)) x.erXdelay t
  let a ← ap1Process (lineCap P .erXap) x.erXap d.1
  .ok (a.1, { x with erXdelay := d.2, erXap := a.2 })

/-- ER_STEP (rule R350): both shaping filters, all tap reads, both tap writes, both cross pairs, the image
matrix. -/
def erStep (P : Params) (s : State) (x : Pair) : Except Fault (ErResult × State) := do
  let a ← bothChans (fun _ ch v => .ok (erShape ch v)) s x
  let tl ← erTaps P a.2.left
  let tr ← erTaps P a.2.right
  let b ← bothChans (fun _ ch v => erStore P ch v) a.2 a.1
  let r ← bothChans (fun _ ch v => erCross P ch v) b.2 ⟨tr, tl⟩
  let fl := add32 tl r.1.l
  let fr := add32 tr r.1.r
  .ok (⟨⟨add32 (mul32 s.eng.ew1 fl) (mul32 s.eng.ew2 fr),
         add32 (mul32 s.eng.ew1 fr) (mul32 s.eng.ew2 fl)⟩, a.1⟩, r.2)

/-- The precondition `MODE = ACTIVE` of the graph's operations (rules R350, R380, R382 and R390). -/
def needActive (s : State) : Except Fault Unit :=
  if s.isActive then .ok () else .error .notActive

/-- ER_STEP as an instruction (rule R350): it answers `eL`, `eR`, `aL`, `aR`. -/
def execErStep (xL xR : Word) (s : State) : Host.Outcome State Fault Refusal :=
  outcomeOf do
    let _ ← needActive s
    let r ← erStep params s ⟨xL, xR⟩
    .ok (r.2.yields (r.1.e.words ++ r.1.a.words))

end Sys2Proof.Machine
end

