-- ==== Sys2Proof/Machine/NoiseLfo.lean ====
section
/-! DEFINITION. The fractal noise source and the oscillators (45_noise_lfo.md). -/

namespace Sys2Proof.Machine

/-- NOISE_NEXT (rule R300): the entry at the cursor, and the cursor moved on. -/
def noiseNext (n : Noise) : Except Fault (Word × Noise) :=
  match n.tab[n.npos]? with
  | some r => .ok (r, { n with npos := (n.npos + 1) % noiseLen })
  | none => .error .indexBeyondBuffer

/-- NOISE_GENERATE (rule R304): the table filled from `NOISE_SEED`, the cursor at 0. -/
def noiseGenerate (n : Noise) : Noise := { n with tab := noiseTable, npos := 0 }

/-- LFO_STEP (rule R310): the rotation, and on every 1024th step the renormalisation. -/
def lfoStep (l : Lfo) : Word × Lfo :=
  let re2 := sub32 (mul32 l.re l.c) (mul32 l.im l.s)
  let im2 := add32 (mul32 l.re l.s) (mul32 l.im l.c)
  if l.count + 1 = lfoRenorm then
    let n := sqrt32 (add32 (mul32 re2 re2) (mul32 im2 im2))
    (div32 im2 n, { l with re := div32 re2 n, im := div32 im2 n, count := 0 })
  else (im2, { l with re := re2, im := im2, count := l.count + 1 })

/-- NOISE_NEXT as an instruction (rule R300). -/
def execNoiseNext (i : InstId) (s : State) : Host.Outcome State Fault Refusal :=
  outcomeOf do
    let _ ← named (if isNoiseId i then some () else none)
    let r ← noiseNext s.noise
    .ok (({ s with noise := r.2 } : State).yields [r.1])

/-- NOISE_GENERATE as an instruction (rule R304). -/
def execNoiseGenerate (i : InstId) (s : State) : Host.Outcome State Fault Refusal :=
  outcomeOf do
    let _ ← named (if isNoiseId i then some () else none)
    .ok (({ s with noise := noiseGenerate s.noise } : State).yields [])

/-- LFO_STEP as an instruction (rule R310). -/
def execLfoStep (i : InstId) (s : State) : Host.Outcome State Fault Refusal :=
  outcomeOf do
    let r ← named (lfoOfId i)
    let y := lfoStep (s.lfo r)
    .ok ((s.setLfo r y.2).yields [y.1])

end Sys2Proof.Machine
end

