-- ==== Sys2Proof/Machine/Oversampler.lean ====
section
/-! DEFINITION. The oversampler's two operations (46_dccut_oversampler.md section 2). -/

namespace Sys2Proof.Machine

/-- OS_UP (rule R331): sub-step `j` of `factor`, zero-stuffed with gain `factor`. -/
def osUpStep (factor : Nat) (q : Bq) (u : Word) (j : Nat) : Except Fault (Word × Bq) :=
  if factor < 2 then .error .factorTooSmall
  else if factor ≤ j then .error .subStepBeyondFactor
  else .ok (bqProcess q (if j = 0 then mul32 (nat32 factor) u else 0))

/-- OS_DOWN (rule R332). -/
def osDownStep (factor : Nat) (q : Bq) (z : Word) : Except Fault (Word × Bq) :=
  if factor < 2 then .error .factorTooSmall
  else .ok (bqProcess q z)

/-- OS_UP as an instruction (rule R331), on an instance of type BQ. -/
def execOsUp (q : InstId) (u j : Word) (s : State) : Host.Outcome State Fault Refusal :=
  outcomeOf do
    let r ← named (bqOfId q)
    let y ← osUpStep s.eng.factor ((s.chan r.1).bq r.2) u j.toNat
    .ok ((s.setBq r.1 r.2 y.2).yields [y.1])

/-- OS_DOWN as an instruction (rule R332), on an instance of type BQ. -/
def execOsDown (q : InstId) (z : Word) (s : State) : Host.Outcome State Fault Refusal :=
  outcomeOf do
    let r ← named (bqOfId q)
    let y ← osDownStep s.eng.factor ((s.chan r.1).bq r.2) z
    .ok ((s.setBq r.1 r.2 y.2).yields [y.1])

end Sys2Proof.Machine
end

