-- ==== Sys2Proof/Machine/EngineGraph.lean ====
section
/-! DEFINITION. The engine graph (48_engine_graph.md): the late network, its oversampled form, one engine
sample, and the mode dispatch of the PROCESS commands. -/

namespace Sys2Proof.Machine

open Sys2Proof.Config (Params)

/-! ## The stages of one sub-step -/

/-- The two modulation values of a sub-step (rule R371). -/
structure Modulation where
  m1 : Word
  m2 : Word
  deriving DecidableEq, Repr

/-- MOD_STEP (rule R371): both oscillators advance and are smoothed. -/
def modStep (s : State) : Modulation × State :=
  let o1 := lfoStep s.lfo1
  let f1 := iir1Process s.lfo1Lpf o1.1
  let o2 := lfoStep s.lfo2
  let f2 := iir1Process s.lfo2Lpf o2.1
  (⟨f1.1, f2.1⟩, { s with lfo1 := o1.2, lfo1Lpf := f1.2, lfo2 := o2.2, lfo2Lpf := f2.2 })

/-- `sgn(c)m`: `m` for the left channel, its sign bit flipped for the right. -/
def sgn (c : Ch) (m : Word) : Word :=
  match c with
  | .left => m
  | .right => neg32 m

/-- The DC cut of a channel (rule R372). -/
def dcStage (x : Chan) (u : Word) : Word × Chan :=
  let y := dccProcess x.dccut u
  (y.1, { x with dccut := y.2 })

/-- The diffusion sections `is` of a channel, in order, each modulated by the next noise entry
(rule R373). -/
def diffuse (P : Params) : List (Fin 10) → Vector Apm 10 → Noise → Word →
    Except Fault (Word × Vector Apm 10 × Noise)
  | [], v, n, x => .ok (x, v, n)
  | i :: is, v, n, x => do
    let m ← noiseNext n
    let y ← apmProcess (apmCap P (.diff i)) v[i] x m.1
    diffuse P is (v.set i.val y.2 i.isLt) m.2 y.1

/-- The ten sections in order. -/
def sections : List (Fin 10) := [0, 1, 2, 3, 4, 5, 6, 7, 8, 9]

/-- DIFFUSE (rule R373): the left channel's ten sections, then the right channel's. -/
def diffuseStage (P : Params) (s : State) (p : Pair) : Except Fault (Pair × State) := do
  let l ← diffuse P sections s.left.diff s.noise p.l
  let r ← diffuse P sections s.right.diff l.2.2 p.r
  .ok (⟨l.1, r.1⟩,
    { s with
      left := { s.left with diff := l.2.1 }
      right := { s.right with diff := r.2.1 }
      noise := r.2.2 })

/-- The write of a channel's diffused signal into its own cross delay (rule R374). -/
def crossStore (P : Params) (x : Chan) (p : Word) : Except Fault (Word × Chan) := do
  let d ← lineWrite (lineCap P (.dl .crossDelay)) x.crossDelay p
  .ok (p, { x with crossDelay := d })

/-- The cross-feed low-pass of a channel (rule R374). -/
def crossFilter (x : Chan) (v : Word) : Word × Chan :=
  let y := iir1Process x.crossLpf v
  (y.1, { x with crossLpf := y.2 })

/-- CROSS (rule R374): both reads, both writes, then the filtered other channel added. -/
def crossStage (P : Params) (s : State) (p : Pair) : Except Fault (Pair × State) := do
  let cl ← lineRead (lineCap P (.dl .crossDelay)) s.right.crossDelay 0
  let cr ← lineRead (lineCap P (.dl .crossDelay)) s.left.crossDelay 0
  let w ← bothChans (fun _ ch v => crossStore P ch v) s p
  let f ← bothChans (fun _ ch v => .ok (crossFilter ch v)) w.2 ⟨cl, cr⟩
  .ok (⟨add32 p.l f.1.l, add32 p.r f.1.r⟩, f.2)

/-- BASS of a channel (rule R375). -/
def bassStage (bassb : Word) (x : Chan) (q : Word) : Word × Chan :=
  let a := bqProcess x.bassAp q
  let l := bqProcess x.bassLpf a.1
  (add32 q (mul32 bassb l.1), { x with bassAp := a.2, bassLpf := l.2 })

/-- DAMP of a channel (rule R376), `m` being its signed modulation. -/
def dampStage (P : Params) (m : Word) (x : Chan) (b : Word) : Except Fault (Word × Chan) := do
  let h := iir1Process x.dampLpf b
  let a ← apmProcess (apmCap P .dampAp1) x.dampAp1 h.1 m
  let b' ← apmProcess (apmCap P .dampAp2) x.dampAp2 a.1 m
  let d ← lineProcess (lineCap P (.dl .dampDelay)) x.dampDelay b'.1
  .ok (d.1, { x with dampLpf := h.2, dampAp1 := a.2, dampAp2 := b'.2, dampDelay := d.2 })

/-- CBASS of a channel (rule R377), `m` being its signed modulation. -/
def cbassStage (P : Params) (m : Word) (x : Chan) (v : Word) : Except Fault (Word × Chan) := do
  let d1 ← lineProcess (lineCap P (.dl .cbassD1)) x.cbassD1 v
  let a2 ← ap2Process P x.cbassAp2 d1.1
  let d2 ← lineProcess (lineCap P (.dl .cbassD2)) x.cbassD2 a2.1
  let a3 ← ap3mProcess P x.cbassAp3 d2.1 m
  .ok (a3.1, { x with cbassD1 := d1.2, cbassAp2 := a2.2, cbassD2 := d2.2, cbassAp3 := a3.2 })

/-- The comb of a channel (rule R378). -/
def combStage (P : Params) (x : Chan) (k : Word) : Except Fault (Word × Chan) := do
  let y ← combProcess (lineCap P .comb) x.comb k
  .ok (y.1, { x with comb := y.2 })

/-- The output of a channel (rule R379): the final low-pass, then the output delay. -/
def outStage (P : Params) (x : Chan) (z : Word) : Except Fault (Word × Chan) := do
  let q := bqProcess x.outLpf z
  let d ← lineProcess (lineCap P (.dl .outDelay)) x.outDelay q.1
  .ok (d.1, { x with outLpf := q.2, outDelay := d.2 })

/-! ## The late network -/

/-- LATE_STEP (rules R370 and R380): one sub-step at the internal rate. -/
def lateStep (P : Params) (s : State) (u : Pair) : Except Fault (Pair × State) := do
  let m := modStep s
  let p ← bothChans (fun _ ch v => .ok (dcStage ch v)) m.2 u
  let d ← diffuseStage P p.2 p.1
  let q ← crossStage P d.2 d.1
  let b ← bothChans (fun _ ch v => .ok (bassStage s.eng.bassb ch v)) q.2 q.1
  let h ← bothChans (fun c ch v => dampStage P (sgn c m.1.m1) ch v) b.2 b.1
  let k ← bothChans (fun c ch v => cbassStage P (sgn c m.1.m2) ch v) h.2 h.1
  let z ← bothChans (fun _ ch v => combStage P ch v) k.2 k.1
  bothChans (fun _ ch v => outStage P ch v) z.2 z.1

/-- The interpolation filter of a channel (rule R331). -/
def upStage (factor j : Nat) (x : Chan) (u : Word) : Except Fault (Word × Chan) := do
  let y ← osUpStep factor x.osUp u j
  .ok (y.1, { x with osUp := y.2 })

/-- The decimation filter of a channel (rule R332). -/
def downStage (factor : Nat) (x : Chan) (z : Word) : Except Fault (Word × Chan) := do
  let y ← osDownStep factor x.osDown z
  .ok (y.1, { x with osDown := y.2 })

/-- One oversampled sub-step `j` (rule R382). -/
def subStep (P : Params) (s : State) (u : Pair) (j : Nat) : Except Fault (Pair × State) := do
  let w ← bothChans (fun _ ch v => upStage s.eng.factor j ch v) s u
  let z ← lateStep P w.2 w.1
  bothChans (fun _ ch v => downStage s.eng.factor ch v) z.2 z.1

/-- The sub-steps `j`, `j + 1`, ... , `n` of them; the outputs of the last one are kept (rule R382). -/
def subSteps (P : Params) (u : Pair) : Nat → Nat → Option Pair → State → Except Fault (Pair × State)
  | 0, _, last, s =>
    match last with
    | some y => .ok (y, s)
    | none => .error .factorTooSmall
  | n + 1, j, _, s => do
    let r ← subStep P s u j
    subSteps P u n (j + 1) (some r.1) r.2

/-- LATE_OS_STEP (rule R382). -/
def lateOsStep (P : Params) (s : State) (u : Pair) : Except Fault (Pair × State) :=
  if s.eng.factor = 1 then lateStep P s u else subSteps P u s.eng.factor 0 none s

/-! ## One engine sample -/

/-- The input delay of the wet path (rule R390). -/
def preWetStage (P : Params) (x : Chan) (v : Word) : Except Fault (Word × Chan) := do
  let d ← lineProcess (lineCap P (.dl .preWet)) x.preWet v
  .ok (d.1, { x with preWet := d.2 })

/-- The input delay of the dry path (rule R390). -/
def preDryStage (P : Params) (x : Chan) (v : Word) : Except Fault (Word × Chan) := do
  let d ← lineProcess (lineCap P (.dl .preDry)) x.preDry v
  .ok (d.1, { x with preDry := d.2 })

/-- The final mix of a channel (rule R390): its dry term, its own wet signal and the other channel's. -/
def mixOut (e : Engine) (d own other : Word) : Word :=
  add32 (add32 (mul32 e.dry d) (mul32 e.wet1 own)) (mul32 e.wet2 other)

/-- ENGINE_SAMPLE (rule R390). -/
def engineSample (P : Params) (s : State) (x : Pair) : Except Fault (Pair × State) := do
  let w ← bothChans (fun _ ch v => preWetStage P ch v) s x
  let d ← bothChans (fun _ ch v => preDryStage P ch v) w.2 x
  let r ← erStep P d.2 w.1
  let li : Pair :=
    ⟨add32 r.1.a.l (mul32 s.eng.ertolate r.1.e.l), add32 r.1.a.r (mul32 s.eng.ertolate r.1.e.r)⟩
  let l ← lateOsStep P r.2 li
  let ml := add32 l.1.l r.1.e.l
  let mr := add32 l.1.r r.1.e.r
  .ok (⟨mixOut s.eng d.1.l ml mr, mixOut s.eng d.1.r mr ml⟩, l.2)

/-- SAMPLE_STEP, the mode dispatch (rule R392): outside ACTIVE the pair passes bit for bit and nothing
changes. -/
def sampleStep (P : Params) (s : State) (x : Pair) : Except Fault (Pair × State) :=
  if s.isActive then engineSample P s x else .ok (x, s)

/-- The samples of a block in order (rule R427). -/
def sampleSteps (P : Params) : List Pair → State → Except Fault (List Pair × State)
  | [], s => .ok ([], s)
  | x :: xs, s => do
    let y ← sampleStep P s x
    let ys ← sampleSteps P xs y.2
    .ok (y.1 :: ys.1, ys.2)

/-! ## The instructions -/

/-- LATE_STEP as an instruction (rule R380). -/
def execLateStep (uL uR : Word) (s : State) : Host.Outcome State Fault Refusal :=
  outcomeOf do
    let _ ← needActive s
    let r ← lateStep params s ⟨uL, uR⟩
    .ok (r.2.yields r.1.words)

/-- LATE_OS_STEP as an instruction (rule R382). -/
def execLateOsStep (uL uR : Word) (s : State) : Host.Outcome State Fault Refusal :=
  outcomeOf do
    let _ ← needActive s
    let r ← lateOsStep params s ⟨uL, uR⟩
    .ok (r.2.yields r.1.words)

/-- ENGINE_SAMPLE as an instruction (rule R390). -/
def execEngineSample (inL inR : Word) (s : State) : Host.Outcome State Fault Refusal :=
  outcomeOf do
    let _ ← needActive s
    let r ← engineSample params s ⟨inL, inR⟩
    .ok (r.2.yields r.1.words)

end Sys2Proof.Machine
end

