-- ==== Sys2Proof/Machine/Configuration.lean ====
section
/-! DEFINITION. The eight external commands (49_configuration.md section 2). Each is one transition; the
checks that need an open parameter (the last two steps of rule R451) stand in the commands they belong
to, and reject with a status and no other change (rule R453). -/

namespace Sys2Proof.Machine

open Sys2Proof.Config (Params)

/-- CONFIGURE (rule R421): the stream-state policy, the deriver where there are parameters, the mode. -/
def configure (P : Params) (keep : Bool) (m : Mode) (p : Option ParamVec) (s : State) : State :=
  let s1 := if keep then s else s.clearStream
  let s2 :=
    match p with
    | some p => derive P p s1
    | none => s1
  let s3 := if keep then s2.reduceCursors else s2
  { s3 with mode := m }

/-- What a flat control vector selects, or why it is rejected (rules R144 and R425). -/
inductive VectorMode where
  | bypass
  | advanced (p : ParamVec)
  | rejected (e : Status)
  deriving DecidableEq, Repr

/-- The row of `PRESET_TABLE` a binary32 index selects: truncated toward zero, none for a NaN, an infinity
or an index outside the table (rule R425). -/
def presetOfIndex (P : Params) (x : Word) : Option ParamVec :=
  match val32 x with
  | .fin neg m e => if truncFin neg m e < 0 then none else presetRow P (truncFin neg m e).toNat
  | _ => none

/-- The control vector decoded (rules R144, R425 and R451). -/
def vectorMode (P : Params) (v : List Word) : VectorMode :=
  match v with
  | [] => .rejected .badLength
  | v0 :: rest =>
    if vecMax < v.length then .rejected .badLength
    else if eq32 v0 P.sentinelBypass then .bypass
    else if eq32 v0 P.sentinelPreset then
      match rest with
      | [] => .rejected .badLength
      | x :: _ =>
        match presetOfIndex P x with
        | some p => .advanced p
        | none => .rejected .badPreset
    else
      match paramsOfWords (v.take 17) with
      | some p => .advanced p
      | none => .rejected .badLength

/-- RESET (rule R420): every element at its reset value; what waits on the port is not the block's. -/
def execReset (s : State) : Host.Outcome State Fault Refusal :=
  .next (({ State.reset with port := s.port } : State).accept [])

/-- CFG_BYPASS (rule R422). -/
def execCfgBypass (keep : Bool) (s : State) : Host.Outcome State Fault Refusal :=
  .next ((configure params keep .bypass none s).accept [])

/-- The state after CFG_PRESET (rule R423). -/
def cfgPreset (P : Params) (keep : Bool) (id : BitVec 16) (s : State) : State :=
  match presetRow P id.toNat with
  | some p => (configure P keep .active (some p) s).accept []
  | none => s.reject .badPreset

/-- CFG_PRESET (rule R423). -/
def execCfgPreset (keep : Bool) (id : BitVec 16) (s : State) : Host.Outcome State Fault Refusal :=
  .next (cfgPreset params keep id s)

/-- CFG_ADVANCED (rule R424). -/
def execCfgAdvanced (keep : Bool) (p : ParamVec) (s : State) : Host.Outcome State Fault Refusal :=
  .next ((configure params keep .active (some p) s).accept [])

/-- The state after CFG_VECTOR (rule R425). -/
def cfgVector (P : Params) (keep : Bool) (v : List Word) (s : State) : State :=
  match vectorMode P v with
  | .bypass => (configure P keep .bypass none s).accept []
  | .advanced p => (configure P keep .active (some p) s).accept []
  | .rejected e => s.reject e

/-- CFG_VECTOR (rule R425). -/
def execCfgVector (keep : Bool) (v : List Word) (s : State) : Host.Outcome State Fault Refusal :=
  .next (cfgVector params keep v s)

/-- PROCESS_SAMPLE (rule R426). -/
def execProcessSample (inL inR : Word) (s : State) : Host.Outcome State Fault Refusal :=
  outcomeOf do
    let r ← sampleStep params s ⟨inL, inR⟩
    .ok (r.2.accept r.1.words)

/-- PROCESS_BLOCK (rule R427). -/
def execProcessBlock (xs : List Pair) (s : State) : Host.Outcome State Fault Refusal :=
  outcomeOf do
    let r ← sampleSteps params xs s
    .ok (r.2.accept (wordsOfPairs r.1))

/-- QUERY_VALID (rule R430). -/
def execQueryValid (s : State) : Host.Outcome State Fault Refusal :=
  .next (s.accept [s.validWord])

end Sys2Proof.Machine
end

