-- ==== Sys2Proof/Machine/DelayLine.lean ====
section
/-! DEFINITION. The delay line's operations as instructions (40_delay_line.md). -/

namespace Sys2Proof.Machine

/-- DL_WRITE (rule R201). -/
def execDlWrite (d : Place) (x : Word) (s : State) : Host.Outcome State Fault Refusal :=
  outcomeOf do
    let r ← named (lineOfPlace d)
    let d' ← lineWrite (lineCap params r.2) ((s.chan r.1).line r.2) x
    .ok ((s.setLine r.1 r.2 d').yields [])

/-- DL_READ (rule R202): no state is written but the answer. -/
def execDlRead (d : Place) (offset : Word) (s : State) : Host.Outcome State Fault Refusal :=
  outcomeOf do
    let r ← named (lineOfPlace d)
    let y ← lineRead (lineCap params r.2) ((s.chan r.1).line r.2) offset.toNat
    .ok (s.yields [y])

/-- DL_PROCESS (rule R203). -/
def execDlProcess (d : Place) (x : Word) (s : State) : Host.Outcome State Fault Refusal :=
  outcomeOf do
    let r ← named (lineOfPlace d)
    let y ← lineProcess (lineCap params r.2) ((s.chan r.1).line r.2) x
    .ok ((s.setLine r.1 r.2 y.2).yields [y.1])

end Sys2Proof.Machine
end

