-- ==== Sys2Proof/Machine/Dispatch.lean ====
section
/-! DEFINITION. One arm for each instruction: a direct call of its meaning. -/

namespace Sys2Proof.Machine

def exec (i : Instr) (s : State) : Host.Outcome State Fault Refusal :=
  match i with
  | .reset => Sys2Proof.Machine.execReset s
  | .cfgBypass keep => Sys2Proof.Machine.execCfgBypass keep s
  | .cfgPreset keep id => Sys2Proof.Machine.execCfgPreset keep id s
  | .cfgAdvanced keep p => Sys2Proof.Machine.execCfgAdvanced keep p s
  | .cfgVector keep v => Sys2Proof.Machine.execCfgVector keep v s
  | .processSample inL inR => Sys2Proof.Machine.execProcessSample inL inR s
  | .processBlock xs => Sys2Proof.Machine.execProcessBlock xs s
  | .queryValid => Sys2Proof.Machine.execQueryValid s
  | .dlWrite d x => Sys2Proof.Machine.execDlWrite d x s
  | .dlRead d offset => Sys2Proof.Machine.execDlRead d offset s
  | .dlProcess d x => Sys2Proof.Machine.execDlProcess d x s
  | .iir1Process f x => Sys2Proof.Machine.execIir1Process f x s
  | .bqProcess q x => Sys2Proof.Machine.execBqProcess q x s
  | .ap1Process a x => Sys2Proof.Machine.execAp1Process a x s
  | .ap2Process a x => Sys2Proof.Machine.execAp2Process a x s
  | .ap3mProcess a x m => Sys2Proof.Machine.execAp3mProcess a x m s
  | .apmProcess a x m => Sys2Proof.Machine.execApmProcess a x m s
  | .combProcess c x => Sys2Proof.Machine.execCombProcess c x s
  | .noiseNext n => Sys2Proof.Machine.execNoiseNext n s
  | .noiseGenerate n => Sys2Proof.Machine.execNoiseGenerate n s
  | .lfoStep l => Sys2Proof.Machine.execLfoStep l s
  | .dccutProcess d x => Sys2Proof.Machine.execDccutProcess d x s
  | .osUp q u j => Sys2Proof.Machine.execOsUp q u j s
  | .osDown q z => Sys2Proof.Machine.execOsDown q z s
  | .erStep xL xR => Sys2Proof.Machine.execErStep xL xR s
  | .lateStep uL uR => Sys2Proof.Machine.execLateStep uL uR s
  | .lateOsStep uL uR => Sys2Proof.Machine.execLateOsStep uL uR s
  | .engineSample inL inR => Sys2Proof.Machine.execEngineSample inL inR s
  | .derive p => Sys2Proof.Machine.execDerive p s

end Sys2Proof.Machine
end

