-- ==== Sys2Proof/Machine/Fetch.lean ====
section
/-! DEFINITION. Requests that no instruction answers, and the request a number of the opcode table makes. -/

namespace Sys2Proof.Machine

/-- A request that spells no instruction: the host's command is rejected with its status (rules R142, R451
and R453); the engine issues none, and the model refuses one by name (log entry 21). -/
def rejectRequest (o : Origin) (e : Status) (s : State) : Host.Outcome State Fault Refusal :=
  match o with
  | .host => .next (s.reject e)
  | .engine => .refused (.notAnOperation e)

/-- The request of an instruction whose bits are `w`, from the agent whose operation it is. -/
def requestOfNumber (nbits w : Nat) : Request :=
  let r := recordOfNumber nbits w
  ⟨originOfHeader r.header, r⟩

end Sys2Proof.Machine
end

