-- ==== Sys2Proof/Machine/Step.lean ====
section
/-! DEFINITION. One step of the machine: the next request taken and run to completion (rules R5, R107 and
R485), or nothing where there is none (rule R465). -/

namespace Sys2Proof.Machine

/-- One step. With no request the block keeps its whole state. Otherwise the first request leaves the
queue; the instruction it spells runs; a command of the host's that spells none is answered with its
status and changes nothing (rules R142, R451 and R453). -/
def step (s : State) : Host.Outcome State Fault Refusal :=
  match s.port with
  | [] => .next s
  | r :: rest =>
    match decode r.origin r.record with
    | .ok i => exec i { s with port := rest }
    | .error e => rejectRequest r.origin e { s with port := rest }

/-- The state with the instruction whose bits are `w` (numbered as spec/opcode_table.json numbers them) as
its next request, issued by the agent whose operation it is (log entries 2 and 3). -/
def State.withFetchWord (s : State) (nbits w : Nat) : State :=
  { s with port := requestOfNumber nbits w :: s.port }

end Sys2Proof.Machine
end

