-- ==== Sys2Proof/Safety.lean ====
section
/-! DEFINITION. What the statements speak of: the checks of a command record (rule R451), the invariant of
rule R61, what two states share, what an operation leaves alone, and each operation as a relation between
the part of the state before and after it, said through reads of single buffer words. -/

namespace Sys2Proof.Machine

open Sys2Proof.Config (Params)

/-! ## The checks of a command record -/

/-- VALIDATE (rule R451), in the order the rule writes it: header and payload words to a status. -/
def validate (P : Params) (h : Word) (w : List Word) : Status :=
  let op := opOf h
  let n := w.length
  let w0 := w.getD 0 0
  let w1 := w.getD 1 0
  let w2 := w.getD 2 0
  if op < 0x01 ∨ 0x08 < op then .illegalOp
  else if rsvOf h ≠ 0 then .reserved
  else if preserveOf h = true ∧ (op = 0x01 ∨ op = 0x06 ∨ op = 0x07 ∨ op = 0x08) then .reserved
  else if immOf h ≠ 0 ∧ op ≠ 0x03 then .reserved
  else if (op = 0x01 ∨ op = 0x02 ∨ op = 0x03 ∨ op = 0x08) ∧ n ≠ 0 then .badLength
  else if op = 0x04 ∧ n ≠ 17 then .badLength
  else if op = 0x06 ∧ n ≠ 2 then .badLength
  else if op = 0x07 ∧ (n < 1 ∨ n ≠ 1 + 2 * w0.toNat) then .badLength
  else if op = 0x05 ∧ (n < 1 ∨ w0 = 0 ∨ vecMax < w0.toNat ∨ n ≠ 1 + w0.toNat) then .badLength
  else if op = 0x05 ∧ eq32 w1 P.sentinelBypass = false ∧ eq32 w1 P.sentinelPreset = true ∧ w0.toNat < 2
  then .badLength
  else if op = 0x05 ∧ eq32 w1 P.sentinelBypass = false ∧ eq32 w1 P.sentinelPreset = false ∧ w0.toNat < 17
  then .badLength
  else if op = 0x03 ∧ nPresets P ≤ (immOf h).toNat then .badPreset
  else if op = 0x05 ∧ eq32 w1 P.sentinelBypass = false ∧ eq32 w1 P.sentinelPreset = true
      ∧ presetOfIndex P w2 = none
  then .badPreset
  else .ok

/-! ## The invariant (rule R61) -/

/-- A line of capacity `cap` is in order (rules R33 and R61), and its buffer is in the canonical form with
no word listed beyond the capacity. -/
structure Line.Ok (cap : Nat) (d : Line) : Prop where
  size_le : d.size ≤ cap
  cursor_lt : d.cursor < d.size ∨ (d.cursor = 0 ∧ d.size = 0)
  buf_wf : Memory.wf d.buf = true
  buf_lt : ∀ e ∈ d.buf, e.1 < cap

/-- A modulated all-pass of capacity `cap` is in order (rules R37 and R61), and so is its buffer. -/
structure Apm.Ok (cap : Nat) (a : Apm) : Prop where
  window :
    (a.size = 0 ∧ a.msize = 0) ∨
    (1 ≤ a.size ∧ 1 ≤ a.msize ∧ a.size + a.msize ≤ cap ∧
      a.wpos < a.size + a.msize ∧ a.rpos < a.size + a.msize)
  buf_wf : Memory.wf a.buf = true
  buf_lt : ∀ e ∈ a.buf, e.1 < cap

/-- The lines that a streaming rule reads at offset 0 (rules R261, R290 and R374); the others are used only
through DL_PROCESS, or are the tap line. -/
def LineRole.readAtZero : LineRole → Bool
  | .dl .crossDelay => true
  | .dl .preWet => false
  | .dl .preDry => false
  | .dl .erTap => false
  | .dl .erXdelay => false
  | .dl .dampDelay => false
  | .dl .cbassD1 => false
  | .dl .cbassD2 => false
  | .dl .outDelay => false
  | .erXap => true
  | .cbassAp2S0 => true
  | .cbassAp2S1 => true
  | .cbassAp3S0 => true
  | .cbassAp3S2 => true
  | .comb => true

/-- A channel's registers are ready for the graph (rule R61's clause on `MODE = ACTIVE`, and rule R350). -/
structure Chan.Ready (P : Params) (x : Chan) : Prop where
  line_size : ∀ r : LineRole, r.readAtZero = true → 1 ≤ (x.line r).size
  apm_size : ∀ r : ApmRole, 1 ≤ (x.apm r).size ∧ 1 ≤ (x.apm r).msize
  tap_line : x.erTap.size = P.capErTap
  tap_off : ∀ k : Fin 18, k.val < x.nTaps.val → 1 ≤ x.taps[k].off ∧ x.taps[k].off < P.capErTap

/-- The invariant of rule R61, with the noise table of rule R305 and the buffers' canonical form. The last
clause rules out a DERIVE issued by itself, which alone leaves cursors unreduced (log entry 13); every
request of the host's meets it. -/
structure Inv (P : Params) (s : State) : Prop where
  line_ok : ∀ (c : Ch) (r : LineRole), ((s.chan c).line r).Ok (lineCap P r)
  apm_ok : ∀ (c : Ch) (r : ApmRole), ((s.chan c).apm r).Ok (apmCap P r)
  noise_tab : s.noise.tab = noiseTable
  noise_pos : s.noise.npos < noiseLen
  lfo_count : ∀ r : LfoRef, (s.lfo r).count < lfoRenorm
  factor_ge : 1 ≤ s.eng.factor
  factor_le : s.eng.factor ≤ osMax
  ready : s.mode = .active → ∀ c : Ch, (s.chan c).Ready P
  port_ok : ∀ q ∈ s.port, ∀ p, decode q.origin q.record ≠ .ok (.derive p)

/-! ## What two states share -/

/-- Two states agree on every configuration register (rules R50, R51 and R52). -/
structure SameConfig (s t : State) : Prop where
  eng : t.eng = s.eng
  n_taps : ∀ c, (t.chan c).nTaps = (s.chan c).nTaps
  taps : ∀ c, (t.chan c).taps = (s.chan c).taps
  line_size : ∀ c r, ((t.chan c).line r).size = ((s.chan c).line r).size
  ap1 : ∀ c r, ((t.chan c).ap1 r).g = ((s.chan c).ap1 r).g ∧
    ((t.chan c).ap1 r).decay = ((s.chan c).ap1 r).decay
  apm : ∀ c r, ((t.chan c).apm r).size = ((s.chan c).apm r).size ∧
    ((t.chan c).apm r).msize = ((s.chan c).apm r).msize ∧
    ((t.chan c).apm r).g = ((s.chan c).apm r).g ∧
    ((t.chan c).apm r).decay = ((s.chan c).apm r).decay
  comb : ∀ c, (t.chan c).comb.fb = (s.chan c).comb.fb
  dcc : ∀ c, (t.chan c).dccut.r = (s.chan c).dccut.r
  iir1 : ∀ r, (t.iir1 r).b0 = (s.iir1 r).b0 ∧ (t.iir1 r).b1 = (s.iir1 r).b1 ∧
    (t.iir1 r).a1 = (s.iir1 r).a1
  bq : ∀ c r, ((t.chan c).bq r).b0 = ((s.chan c).bq r).b0 ∧
    ((t.chan c).bq r).b1 = ((s.chan c).bq r).b1 ∧ ((t.chan c).bq r).b2 = ((s.chan c).bq r).b2 ∧
    ((t.chan c).bq r).a1 = ((s.chan c).bq r).a1 ∧ ((t.chan c).bq r).a2 = ((s.chan c).bq r).a2
  lfo : ∀ r, (t.lfo r).c = (s.lfo r).c ∧ (t.lfo r).s = (s.lfo r).s

/-- Two states agree on every element of stream state (rule R42). -/
structure SameStream (s t : State) : Prop where
  line : ∀ c r, ((t.chan c).line r).buf = ((s.chan c).line r).buf ∧
    ((t.chan c).line r).cursor = ((s.chan c).line r).cursor
  apm : ∀ c r, ((t.chan c).apm r).buf = ((s.chan c).apm r).buf ∧
    ((t.chan c).apm r).wpos = ((s.chan c).apm r).wpos ∧
    ((t.chan c).apm r).rpos = ((s.chan c).apm r).rpos
  iir1 : ∀ r, (t.iir1 r).x1 = (s.iir1 r).x1 ∧ (t.iir1 r).y1 = (s.iir1 r).y1
  bq : ∀ c r, ((t.chan c).bq r).x1 = ((s.chan c).bq r).x1 ∧
    ((t.chan c).bq r).x2 = ((s.chan c).bq r).x2 ∧ ((t.chan c).bq r).y1 = ((s.chan c).bq r).y1 ∧
    ((t.chan c).bq r).y2 = ((s.chan c).bq r).y2
  dcc : ∀ c, (t.chan c).dccut.x1 = (s.chan c).dccut.x1 ∧ (t.chan c).dccut.y1 = (s.chan c).dccut.y1
  npos : t.noise.npos = s.noise.npos
  lfo : ∀ r, (t.lfo r).re = (s.lfo r).re ∧ (t.lfo r).im = (s.lfo r).im ∧
    (t.lfo r).count = (s.lfo r).count

/-- Every element of stream state has its reset value (rules R42, R60 and R421 with `PRESERVE = 0`). -/
structure StreamCleared (t : State) : Prop where
  line : ∀ c r, (∀ i, Memory.read ((t.chan c).line r).buf i = 0) ∧ ((t.chan c).line r).cursor = 0
  apm : ∀ c r, (∀ i, Memory.read ((t.chan c).apm r).buf i = 0) ∧ ((t.chan c).apm r).wpos = 0 ∧
    ((t.chan c).apm r).rpos = 0
  iir1 : ∀ r, (t.iir1 r).x1 = 0 ∧ (t.iir1 r).y1 = 0
  bq : ∀ c r, ((t.chan c).bq r).x1 = 0 ∧ ((t.chan c).bq r).x2 = 0 ∧ ((t.chan c).bq r).y1 = 0 ∧
    ((t.chan c).bq r).y2 = 0
  dcc : ∀ c, (t.chan c).dccut.x1 = 0 ∧ (t.chan c).dccut.y1 = 0
  npos : t.noise.npos = 0
  lfo : ∀ r, (t.lfo r).re = 0x3F800000 ∧ (t.lfo r).im = 0 ∧ (t.lfo r).count = 0

/-- A position modulo a length, 0 for a length of 0 (rule R421). -/
def modLength (n len : Nat) : Nat := if len = 0 then 0 else n % len

/-- Stream state is kept, each cursor reduced modulo its new logical length (rules R205 and R421 with
`PRESERVE = 1`). -/
structure StreamKept (s t : State) : Prop where
  line : ∀ c r, ((t.chan c).line r).buf = ((s.chan c).line r).buf ∧
    ((t.chan c).line r).cursor =
      modLength ((s.chan c).line r).cursor ((t.chan c).line r).size
  apm : ∀ c r, ((t.chan c).apm r).buf = ((s.chan c).apm r).buf ∧
    ((t.chan c).apm r).wpos =
      modLength ((s.chan c).apm r).wpos (((t.chan c).apm r).size + ((t.chan c).apm r).msize) ∧
    ((t.chan c).apm r).rpos =
      modLength ((s.chan c).apm r).rpos (((t.chan c).apm r).size + ((t.chan c).apm r).msize)
  iir1 : ∀ r, (t.iir1 r).x1 = (s.iir1 r).x1 ∧ (t.iir1 r).y1 = (s.iir1 r).y1
  bq : ∀ c r, ((t.chan c).bq r).x1 = ((s.chan c).bq r).x1 ∧
    ((t.chan c).bq r).x2 = ((s.chan c).bq r).x2 ∧ ((t.chan c).bq r).y1 = ((s.chan c).bq r).y1 ∧
    ((t.chan c).bq r).y2 = ((s.chan c).bq r).y2
  dcc : ∀ c, (t.chan c).dccut.x1 = (s.chan c).dccut.x1 ∧ (t.chan c).dccut.y1 = (s.chan c).dccut.y1
  npos : t.noise.npos = s.noise.npos
  lfo : ∀ r, (t.lfo r).re = (s.lfo r).re ∧ (t.lfo r).im = (s.lfo r).im ∧
    (t.lfo r).count = (s.lfo r).count

/-! ## Frames -/

/-- The parts of the state whose stream state an operation may write. -/
structure Touched where
  lines : List (Ch × LineRole) := []
  apms : List (Ch × ApmRole) := []
  iir1s : List Iir1Ref := []
  bqs : List (Ch × BqRole) := []
  dccs : List Ch := []
  lfos : List LfoRef := []
  noise : Bool := false

/-- The frame of a streaming operation: no configuration register, no `MODE`, nothing of the noise table,
nothing on the port or answered on it, and no stream state but that of the parts named. -/
structure Unchanged (T : Touched) (s t : State) : Prop where
  config : SameConfig s t
  mode : t.mode = s.mode
  noise_tab : t.noise.tab = s.noise.tab
  port : t.port = s.port
  reply : t.reply = s.reply
  line : ∀ c r, (c, r) ∉ T.lines → (t.chan c).line r = (s.chan c).line r
  apm : ∀ c r, (c, r) ∉ T.apms → (t.chan c).apm r = (s.chan c).apm r
  iir1 : ∀ r, r ∉ T.iir1s → t.iir1 r = s.iir1 r
  bq : ∀ c r, (c, r) ∉ T.bqs → (t.chan c).bq r = (s.chan c).bq r
  dcc : ∀ c, c ∉ T.dccs → (t.chan c).dccut = (s.chan c).dccut
  lfo : ∀ r, r ∉ T.lfos → t.lfo r = s.lfo r
  noise : T.noise = false → t.noise.npos = s.noise.npos

/-- A line on both channels. -/
def onBoth {α : Type} (rs : List α) : List (Ch × α) :=
  rs.map (fun r => (Ch.left, r)) ++ rs.map (fun r => (Ch.right, r))

/-- What the early-reflection network writes (rule R350). -/
def erTouched : Touched where
  lines := onBoth [.dl .erTap, .dl .erXdelay, .erXap]
  iir1s := [.chan .left .erLpf, .chan .left .erHpf, .chan .right .erLpf, .chan .right .erHpf]

/-- The ten diffusion sections. -/
def diffRoles : List ApmRole := sections.map ApmRole.diff

/-- What one sub-step of the late network writes (rules R370 to R380). -/
def lateTouched : Touched where
  lines := onBoth
    [.dl .crossDelay, .dl .dampDelay, .dl .cbassD1, .dl .cbassD2, .dl .outDelay,
     .cbassAp2S0, .cbassAp2S1, .cbassAp3S0, .cbassAp3S2, .comb]
  apms := onBoth (diffRoles ++ [.dampAp1, .dampAp2, .cbassAp3S1])
  iir1s := [.lfo1, .lfo2, .chan .left .crossLpf, .chan .left .dampLpf, .chan .right .crossLpf,
    .chan .right .dampLpf]
  bqs := onBoth [.bassAp, .bassLpf, .outLpf]
  dccs := [.left, .right]
  lfos := [.lfo1, .lfo2]
  noise := true

/-- What the oversampled late network writes with `F > 1` (rule R382). -/
def lateOsTouched : Touched :=
  { lateTouched with bqs := onBoth [.bassAp, .bassLpf, .outLpf, .osUp, .osDown] }

/-- What the input delays write (rule R390). -/
def preTouched : Touched where
  lines := onBoth [.dl .preWet, .dl .preDry]

/-- What the input delays and the early-reflection network write together. -/
def headTouched : Touched :=
  { erTouched with lines := preTouched.lines ++ erTouched.lines }

/-! ## Commands and preconditions -/

/-- A configuration with parameters that the checks of rule R451 accept: CFG_PRESET, CFG_ADVANCED, or a
CFG_VECTOR whose first word is not the bypass sentinel; `keep` is its `PRESERVE` bit. -/
def ConfiguresParameters (P : Params) (keep : Bool) (i : Instr) : Prop :=
  validate P (encode i).header (encode i).payload = .ok ∧
    ((∃ id, i = .cfgPreset keep id) ∨ (∃ p, i = .cfgAdvanced keep p) ∨
      ∃ v0 rest, i = .cfgVector keep (v0 :: rest) ∧ eq32 v0 P.sentinelBypass = false)

/-- Why a section or a comb on this line stops (the preconditions of rules R261 and R290, and rule R455). -/
def Line.stop (cap : Nat) (d : Line) : Option Fault :=
  if d.size = 0 then some .emptyLine
  else if cap < d.size then some .lengthAboveCapacity
  else none

/-- Why a modulated section stops (the preconditions of rule R263). -/
def Apm.stop (cap : Nat) (a : Apm) : Option Fault :=
  if a.size = 0 ∨ a.msize = 0 then some .emptyWindow
  else if cap < a.size + a.msize then some .lengthAboveCapacity
  else none

/-! ## The operations as relations -/

/-- The second buffer is the first with the word at one index replaced: every other word reads as before
(rule R102). -/
def Stores (m m' : Memory) (i : Nat) (v : Word) : Prop :=
  ∀ j, Memory.read m' j = if j = i then v else Memory.read m j

/-- The oldest word of a line, at its cursor (rule R200). -/
def Line.oldest (d : Line) : Word := Memory.read d.buf d.cursor

/-- DL_WRITE (rule R201). -/
def Line.Writes (d d' : Line) (x : Word) : Prop :=
  (d.size = 0 → d' = d) ∧
  (d.size ≠ 0 → d'.size = d.size ∧ d'.cursor = (d.cursor + 1) % d.size ∧
    Stores d.buf d'.buf d.cursor x)

/-- DL_PROCESS (rule R203). -/
def Line.Delays (d d' : Line) (x y : Word) : Prop :=
  d.Writes d' x ∧ y = if d.size = 0 then x else d.oldest

/-- IIR1_PROCESS (rule R220). -/
def Iir1.Steps (f f' : Iir1) (x y : Word) : Prop :=
  y = add32 (add32 (mul32 f.b0 x) (mul32 f.b1 f.x1)) (mul32 f.a1 f.y1) ∧
  f' = { f with x1 := x, y1 := y }

/-- BQ_PROCESS (rule R240). -/
def Bq.Steps (q q' : Bq) (x y : Word) : Prop :=
  y = sub32 (sub32 (add32 (add32 (mul32 q.b0 x) (mul32 q.b1 q.x1)) (mul32 q.b2 q.x2))
    (mul32 q.a1 q.y1)) (mul32 q.a2 q.y2) ∧
  q' = { q with x1 := x, x2 := q.x1, y1 := y, y2 := q.y1 }

/-- DCCUT_PROCESS (rule R330). -/
def Dcc.Steps (d d' : Dcc) (x y : Word) : Prop :=
  y = add32 (sub32 x d.x1) (mul32 d.r d.y1) ∧ d' = { d with x1 := x, y1 := y }

/-- AP1_PROCESS (rules R260 and R261), for a line of length at least 1. -/
def Ap1.Steps (a a' : Ap1) (x y : Word) : Prop :=
  let d := mul32 a.decay a.line.oldest
  let v := add32 x (mul32 a.g d)
  y = sub32 d (mul32 a.g v) ∧ a.line.Writes a'.line v ∧ a'.g = a.g ∧ a'.decay = a.decay

/-- APM_PROCESS (rules R260 and R263), for `size` and `msize` at least 1. -/
def Apm.Steps (a a' : Apm) (x m y : Word) : Prop :=
  let len := a.size + a.msize
  let rpos := (a.wpos + a.msize - modOffset m a.msize) % len
  let d := mul32 a.decay (Memory.read a.buf rpos)
  let v := add32 x (mul32 a.g d)
  y = sub32 d (mul32 a.g v) ∧ Stores a.buf a'.buf a.wpos v ∧ a'.rpos = rpos ∧
  a'.wpos = (a.wpos + 1) % len ∧ a'.size = a.size ∧ a'.msize = a.msize ∧ a'.g = a.g ∧
  a'.decay = a.decay

/-- AP2_PROCESS (rule R264). -/
def Ap2.Steps (a a' : Ap2) (x y : Word) : Prop :=
  ∃ t, a.s0.Steps a'.s0 x t ∧ a.s1.Steps a'.s1 t y

/-- AP3M_PROCESS (rule R265). -/
def Ap3m.Steps (a a' : Ap3m) (x m y : Word) : Prop :=
  ∃ t0 t1, a.s0.Steps a'.s0 x t0 ∧ a.s1.Steps a'.s1 t0 m t1 ∧ a.s2.Steps a'.s2 t1 y

/-- COMB_PROCESS (rule R290), for a line of length at least 1. -/
def Comb.Steps (k k' : Comb) (x y : Word) : Prop :=
  y = k.line.oldest ∧ k.line.Writes k'.line (add32 x (mul32 k.fb y)) ∧ k'.fb = k.fb

/-- LFO_STEP (rule R310). -/
def Lfo.Steps (l l' : Lfo) (y : Word) : Prop :=
  let re2 := sub32 (mul32 l.re l.c) (mul32 l.im l.s)
  let im2 := add32 (mul32 l.re l.s) (mul32 l.im l.c)
  let n := sqrt32 (add32 (mul32 re2 re2) (mul32 im2 im2))
  l'.c = l.c ∧ l'.s = l.s ∧ y = l'.im ∧
  (l.count + 1 = 1024 → l'.re = div32 re2 n ∧ l'.im = div32 im2 n ∧ l'.count = 0) ∧
  (l.count + 1 ≠ 1024 → l'.re = re2 ∧ l'.im = im2 ∧ l'.count = l.count + 1)

/-- A tap sum: in tap order from +0.0, each tap its gain times the word at its offset behind the cursor
(rules R200, R202 and R350). -/
def Chan.tapTotal (x : Chan) : Word :=
  (x.taps.toList.take x.nTaps.val).foldl
    (fun acc k => add32 acc
      (mul32 k.gain (Memory.read x.erTap.buf (lineIndex x.erTap k.off)))) 0

/-- ER_STEP (rule R350) on the inputs `x`, with the reflections `e` and the shaped inputs `a`. -/
def ErSteps (s t : State) (x e a : Pair) : Prop :=
  ∃ h xd r : Ch → Word, ∀ c : Ch,
    (s.chan c).erLpf.Steps (t.chan c).erLpf (x.get c) (h c) ∧
    (s.chan c).erHpf.Steps (t.chan c).erHpf (h c) (a.get c) ∧
    (s.chan c).erTap.Writes (t.chan c).erTap (a.get c) ∧
    (s.chan c).erXdelay.Delays (t.chan c).erXdelay (s.chan c.other).tapTotal (xd c) ∧
    (s.chan c).erXap.Steps (t.chan c).erXap (xd c) (r c) ∧
    e.get c =
      add32 (mul32 s.eng.ew1 (add32 (s.chan c).tapTotal (r c)))
        (mul32 s.eng.ew2 (add32 (s.chan c.other).tapTotal (r c.other)))

/-- The number of noise entries drawn before a channel's first diffusion section (rule R373). -/
def drawnBefore : Ch → Nat
  | .left => 0
  | .right => 10

/-- The noise entry `k` draws after the cursor (rule R300). -/
def Noise.entry (n : Noise) (k : Nat) : Word := n.tab.getD ((n.npos + k) % noiseLen) 0

/-- LATE_STEP (rules R371 to R380) on the inputs `u`, with the outputs `y`. -/
def LateSteps (s t : State) (u y : Pair) : Prop :=
  ∃ (o1 m1 o2 m2 : Word) (p f q ba bl b h a1 a2 sd d1 c2 d2 k z ol : Ch → Word)
    (v : Ch → Nat → Word),
    s.lfo1.Steps t.lfo1 o1 ∧ s.lfo1Lpf.Steps t.lfo1Lpf o1 m1 ∧
    s.lfo2.Steps t.lfo2 o2 ∧ s.lfo2Lpf.Steps t.lfo2Lpf o2 m2 ∧
    t.noise.npos = (s.noise.npos + 20) % noiseLen ∧
    ∀ c : Ch,
      (s.chan c).dccut.Steps (t.chan c).dccut (u.get c) (v c 0) ∧
      (∀ i : Fin 10, ((s.chan c).apm (.diff i)).Steps ((t.chan c).apm (.diff i)) (v c i.val)
        (s.noise.entry (drawnBefore c + i.val)) (v c (i.val + 1))) ∧
      p c = v c 10 ∧
      (s.chan c).crossDelay.Writes (t.chan c).crossDelay (p c) ∧
      (s.chan c).crossLpf.Steps (t.chan c).crossLpf (s.chan c.other).crossDelay.oldest (f c) ∧
      q c = add32 (p c) (f c) ∧
      (s.chan c).bassAp.Steps (t.chan c).bassAp (q c) (ba c) ∧
      (s.chan c).bassLpf.Steps (t.chan c).bassLpf (ba c) (bl c) ∧
      b c = add32 (q c) (mul32 s.eng.bassb (bl c)) ∧
      (s.chan c).dampLpf.Steps (t.chan c).dampLpf (b c) (h c) ∧
      (s.chan c).dampAp1.Steps (t.chan c).dampAp1 (h c) (sgn c m1) (a1 c) ∧
      (s.chan c).dampAp2.Steps (t.chan c).dampAp2 (a1 c) (sgn c m1) (a2 c) ∧
      (s.chan c).dampDelay.Delays (t.chan c).dampDelay (a2 c) (sd c) ∧
      (s.chan c).cbassD1.Delays (t.chan c).cbassD1 (sd c) (d1 c) ∧
      (s.chan c).cbassAp2.Steps (t.chan c).cbassAp2 (d1 c) (c2 c) ∧
      (s.chan c).cbassD2.Delays (t.chan c).cbassD2 (c2 c) (d2 c) ∧
      (s.chan c).cbassAp3.Steps (t.chan c).cbassAp3 (d2 c) (sgn c m2) (k c) ∧
      (s.chan c).comb.Steps (t.chan c).comb (k c) (z c) ∧
      (s.chan c).outLpf.Steps (t.chan c).outLpf (z c) (ol c) ∧
      (s.chan c).outDelay.Delays (t.chan c).outDelay (ol c) (y.get c)

/-- One oversampled sub-step `j` (rules R331, R332 and R382). -/
def SubSteps (s t : State) (u : Pair) (j : Nat) (y : Pair) : Prop :=
  ∃ w z : Pair, LateSteps s t w z ∧ ∀ c : Ch,
    (s.chan c).osUp.Steps (t.chan c).osUp
      (if j = 0 then mul32 (nat32 s.eng.factor) (u.get c) else 0) (w.get c) ∧
    (s.chan c).osDown.Steps (t.chan c).osDown (z.get c) (y.get c)

/-- LATE_OS_STEP with `F > 1` (rule R382): `F` sub-steps, the last one's outputs kept. -/
def OversampledSteps (s t : State) (u y : Pair) : Prop :=
  ∃ (st : Nat → State) (ys : Nat → Pair), st 0 = s ∧ st s.eng.factor = t ∧
    y = ys (s.eng.factor - 1) ∧
    ∀ j, j < s.eng.factor →
      SubSteps (st j) (st (j + 1)) u j (ys j) ∧ Unchanged lateOsTouched (st j) (st (j + 1))

/-- LATE_OS_STEP (rule R382). -/
def LateOsSteps (s t : State) (u y : Pair) : Prop :=
  (s.eng.factor = 1 → LateSteps s t u y ∧ Unchanged lateTouched s t) ∧
  (s.eng.factor ≠ 1 → OversampledSteps s t u y)

/-- The part of ENGINE_SAMPLE before the late network (rule R390): the input delays on `x`, giving the wet
inputs and the delayed dry inputs `d`, and the early-reflection network. -/
def HeadSteps (s t : State) (x d e a : Pair) : Prop :=
  ∃ wet : Pair, ErSteps s t wet e a ∧ ∀ c : Ch,
    (s.chan c).preWet.Delays (t.chan c).preWet (x.get c) (wet.get c) ∧
    (s.chan c).preDry.Delays (t.chan c).preDry (x.get c) (d.get c)

/-- ENGINE_SAMPLE (rule R390) on the inputs `x`, with the outputs `y`. -/
def EngineSteps (s t : State) (x y : Pair) : Prop :=
  ∃ (s1 : State) (d e a l li : Pair),
    HeadSteps s s1 x d e a ∧ Unchanged headTouched s s1 ∧
    LateOsSteps s1 t li l ∧
    ∀ c : Ch,
      li.get c = add32 (a.get c) (mul32 s.eng.ertolate (e.get c)) ∧
      y.get c =
        add32
          (add32 (mul32 s.eng.dry (d.get c)) (mul32 s.eng.wet1 (add32 (l.get c) (e.get c))))
          (mul32 s.eng.wet2 (add32 (l.get c.other) (e.get c.other)))

/-- A block of samples (rule R427) in `MODE = ACTIVE`: each pair's engine sample in order. -/
def BlockSteps : State → State → List Pair → List Pair → Prop
  | s, t, [], [] => t = s
  | s, t, x :: xs, y :: ys => ∃ s1, EngineSteps s s1 x y ∧ BlockSteps s1 t xs ys
  | _, _, _, _ => False

/-- Blocks of samples given to PROCESS_BLOCK one after another: the last state and all the output words in
order, none where one of them stops. -/
def runBlocks : List (List Pair) → State → Option (State × List Word)
  | [], s => some (s, [])
  | xs :: xss, s =>
    match exec (.processBlock xs) s with
    | .next t =>
      match runBlocks xss t with
      | some r => some (r.1, t.reply.tail ++ r.2)
      | none => none
    | .fault _ => none
    | .refused _ => none

/-- The generator draws before octave `o` begins (rule R304: octave `o'` draws `NOISE_LEN / 2^o'`). -/
def drawsBefore (o : Nat) : Nat := ((List.range o).map (fun k => noiseLen / 2 ^ k)).sum

/-- The entry `i` of the noise table (rules R301 to R304): over the octaves in order, the weighted value of
the draw whose run covers the entry. -/
def noiseEntry (i : Nat) : Word :=
  (List.range 8).foldl
    (fun acc o => add32 acc
      (mul32 (octaveWeight o)
        (uniform (Nat.iterate xorshift32 (drawsBefore o + i / 2 ^ o + 1) noiseSeed)))) 0

/-- Writes into a line, in order. -/
def writeAll (cap : Nat) : Line → List Word → Except Fault Line
  | d, [] => .ok d
  | d, x :: xs =>
    match lineWrite cap d x with
    | .ok d' => writeAll cap d' xs
    | .error e => .error e

end Sys2Proof.Machine
end

