-- ==== Sys2Proof/Certificates/Slice0/Obligations.lean ====
section
/-! DEFINITION. The statements for the provers. `port`, `reply` and `opResult` are the model's own fields (log
entries 1 and 4): the queue of requests, the last command's answer, the last internal operation's result. A
statement about an instruction says what it answers, which part of the state it writes and how, and, through
`Unchanged` or an equation of states, that it writes nothing else. -/

open Sys2Proof Sys2Proof.Machine
open Sys2Proof.Config (Params TopoCh)

/-! ## Records and words -/

/-- Decoding the record of a well-formed instruction gives the instruction back, with every operand at every
value (rules R131, R132, R136, R140, R141). -/
def Obligations.DecodeOfEncode : Prop :=
  ∀ i : Instr, i.wellFormed = true → i.encodable = true → decode i.origin (encode i) = .ok i

/-- A record the command port takes is the one record its instruction is written as: no bit of it is
dropped (rules R131, R136, R140, R142). -/
def Obligations.EncodeOfDecodeOnThePort : Prop :=
  ∀ (r : Record) (i : Instr), decode .host r = .ok i →
    encode i = r ∧ i.origin = .host ∧ i.wellFormed = true ∧ i.encodable = true

/-- The encoding examples of rule R147 (the spec derives them from rules R131, R136 and R140), read as the
commands they are written beside. -/
def Obligations.ExampleRecordsDecode : Prop :=
  decode .host ⟨0x00000001, []⟩ = .ok .reset ∧
  decode .host ⟨0x00000102, []⟩ = .ok (.cfgBypass true) ∧
  decode .host ⟨0x00030003, []⟩ = .ok (.cfgPreset false 3) ∧
  decode .host ⟨0x00030103, []⟩ = .ok (.cfgPreset true 3) ∧
  decode .host ⟨0x00000006, [0x3F800000, 0xBF000000]⟩ = .ok (.processSample 0x3F800000 0xBF000000) ∧
  decode .host ⟨0x00000007, [0x00000002, 0x3E800000, 0x00000000, 0x00000000, 0x80000000]⟩ =
    .ok (.processBlock [⟨0x3E800000, 0x00000000⟩, ⟨0x00000000, 0x80000000⟩]) ∧
  decode .host ⟨0x00000008, []⟩ = .ok .queryValid ∧
  decode .host ⟨0x00000005, [0x00000002, params.sentinelPreset, 0x3F800000]⟩ =
    .ok (.cfgVector false [params.sentinelPreset, 0x3F800000])

/-- A word is carried as four bytes, byte `k` its bits `8k + 7` down to `8k`, and a record of words carried
as bytes is read back whole (rules R103 and R130). -/
def Obligations.WordsAreCarriedLittleEndian : Prop :=
  (∀ (w : Word) (k j : Nat), k < 4 → j < 8 →
    (bytesOfWord w).length = 4 ∧ ((bytesOfWord w).getD k 0).getLsbD j = w.getLsbD (8 * k + j)) ∧
  ∀ r : Record, recordOfBytes (bytesOfRecord r) = some r

/-! ## Steps -/

/-- A step takes the first request and runs the instruction it spells. -/
def Obligations.StepRunsTheDecodedInstruction : Prop :=
  ∀ (s : State) (r : Request) (rest : List Request) (i : Instr),
    s.port = r :: rest → decode r.origin r.record = .ok i →
    step s = exec i { s with port := rest }

/-- With no request the block keeps its whole state (rule R465). -/
def Obligations.IdleStepKeepsTheState : Prop :=
  ∀ s : State, s.port = [] → step s = .next s

/-- A command that fails a check of rule R451 is answered with the status of the first check it fails, and
nothing else of the state changes (rules R451, R452, R453). -/
def Obligations.RejectedCommandsChangeNothing : Prop :=
  ∀ (s : State) (h : Word) (w : List Word) (rest : List Request),
    s.port = ⟨.host, ⟨h, w⟩⟩ :: rest → validate params h w ≠ .ok →
    step s = .next { s with port := rest, reply := [statusWord (validate params h w)] }

/-- Every command of the host's is answered, in every state the invariant allows: the step answers a next
state whose status word is the one rule R451 gives. -/
def Obligations.HostCommandsAreAnswered : Prop :=
  ∀ (s : State) (h : Word) (w : List Word) (rest : List Request),
    Inv params s → s.port = ⟨.host, ⟨h, w⟩⟩ :: rest →
    ∃ t, step s = .next t ∧ t.port = rest ∧
      t.reply.head? = some (statusWord (validate params h w))

/-- No sequence of the host's commands reaches a fault or a refusal, from any state the invariant allows (the
spec derives this in rule R16; the faults themselves are rule R15's). -/
def Obligations.HostRunsNeverStop : Prop :=
  ∀ (s : State) (n : Nat),
    Inv params s → (∀ q ∈ s.port, q.origin = Origin.host) →
    ∃ t, Host.Core.run core n s = .next t ∧ Inv params t

/-- An internal operation sent by the host is rejected with ILLEGAL_OP and changes nothing (rule R142). -/
def Obligations.InternalOperationsAreIllegalOnThePort : Prop :=
  ∀ (s : State) (i : Instr) (rest : List Request),
    i.origin = Origin.engine → s.port = ⟨.host, encode i⟩ :: rest →
    step s = .next { s with port := rest, reply := [1] }

/-! ## Reset and the invariant -/

/-- Every element of the state after reset has the value of rules R51 and R60. -/
def Obligations.ResetValues : Prop :=
  State.reset.mode = .unconfigured ∧
  StreamCleared State.reset ∧
  State.reset.noise.tab = noiseTable ∧
  State.reset.eng = ⟨1, 0, 0, 0, 0, 0, 0, 0, 0, 0, 0⟩ ∧
  (∀ c, ((State.reset.chan c).nTaps = 0 ∧
      ∀ k : Fin 18, (State.reset.chan c).taps[k] = ⟨0, 0⟩)) ∧
  (∀ c r, ((State.reset.chan c).line r).size = 0) ∧
  (∀ c r, ((State.reset.chan c).ap1 r).g = 0 ∧ ((State.reset.chan c).ap1 r).decay = 0) ∧
  (∀ c r, ((State.reset.chan c).apm r).size = 0 ∧ ((State.reset.chan c).apm r).msize = 0 ∧
    ((State.reset.chan c).apm r).g = 0 ∧ ((State.reset.chan c).apm r).decay = 0) ∧
  (∀ c, (State.reset.chan c).comb.fb = 0 ∧ (State.reset.chan c).dccut.r = 0) ∧
  (∀ r, (State.reset.iir1 r).b0 = 0 ∧ (State.reset.iir1 r).b1 = 0 ∧ (State.reset.iir1 r).a1 = 0) ∧
  (∀ c r, ((State.reset.chan c).bq r).b0 = 0 ∧ ((State.reset.chan c).bq r).b1 = 0 ∧
    ((State.reset.chan c).bq r).b2 = 0 ∧ ((State.reset.chan c).bq r).a1 = 0 ∧
    ((State.reset.chan c).bq r).a2 = 0) ∧
  (∀ r, (State.reset.lfo r).c = 0 ∧ (State.reset.lfo r).s = 0)

/-- RESET puts every element at its reset value, whatever the state before (rule R420), and answers OK. That
the requests still waiting stay is the model's choice (log entry 23). -/
def Obligations.ResetCommandResult : Prop :=
  ∀ s : State, exec .reset s = .next { State.reset with port := s.port, reply := [0] }

/-- The state after reset meets the invariant `Inv`: the clauses of rule R61, which the spec derives from its
other rules, the noise table, and the model's own two clauses (the buffers' canonical form, log entry 5; the
requests waiting, log entry 13). -/
def Obligations.InvariantHoldsAtReset : Prop := Inv params State.reset

/-- Every step from a state of the invariant that answers a next state keeps the invariant: reset,
configurations, processing, rejections and single internal operations alike. The spec derives the clauses of
rule R61; the canonical form (log entry 5) and the clause on the waiting requests (log entry 13) are the
model's. -/
def Obligations.StepKeepsTheInvariant : Prop :=
  ∀ s t : State, Inv params s → step s = .next t → Inv params t

/-- No instruction changes the noise table (the spec derives this in rule R305). -/
def Obligations.NoiseTableIsConstant : Prop :=
  ∀ (i : Instr) (s t : State), s.noise.tab = noiseTable → exec i s = .next t → t.noise.tab = noiseTable

/-- The noise table's entries: over the octaves in order, octave `o` adds its weight times the draw whose run
of `2^o` entries covers the entry (rules R301 to R304). -/
def Obligations.NoiseTableEntries : Prop :=
  noiseTable.length = 16384 ∧ ∀ i, i < 16384 → noiseTable[i]? = some (noiseEntry i)

/-- Which instructions can change `MODE`, and to what (rule R32). -/
def Obligations.ModeIsWrittenByConfigurationOnly : Prop :=
  (modeBits .unconfigured = 0 ∧ modeBits .bypass = 1 ∧ modeBits .active = 2) ∧
  ∀ (i : Instr) (s t : State), exec i s = .next t → t.mode ≠ s.mode →
    (i = .reset ∧ t.mode = .unconfigured) ∨
    (∃ keep, i = .cfgBypass keep ∧ t.mode = .bypass) ∨
    (∃ keep id, i = .cfgPreset keep id ∧ t.mode = .active) ∨
    (∃ keep p, i = .cfgAdvanced keep p ∧ t.mode = .active) ∨
    (∃ keep v, i = .cfgVector keep v ∧ (t.mode = .bypass ∨ t.mode = .active))

/-- Every instruction but RESET, the deriver and the configurations that run it leaves every configuration
register alone (rules R50 and R51). -/
def Obligations.ConfigurationRegistersAreWrittenByResetAndDeriver : Prop :=
  ∀ (i : Instr) (s t : State), exec i s = .next t →
    i ≠ .reset → (∀ p, i ≠ .derive p) → (∀ keep p, i ≠ .cfgAdvanced keep p) →
    (∀ keep id, i ≠ .cfgPreset keep id) → (∀ keep v, i ≠ .cfgVector keep v) →
    SameConfig s t

/-! ## Configuration commands -/

/-- CFG_BYPASS (rules R421 and R422): it completes with status OK, `MODE` is BYPASS, the configuration
registers are unchanged, and stream state is cleared or kept as `PRESERVE` says. -/
def Obligations.CfgBypassResult : Prop :=
  ∀ (keep : Bool) (s : State), ∃ t, exec (.cfgBypass keep) s = .next t ∧
    t.mode = .bypass ∧ SameConfig s t ∧ t.noise.tab = s.noise.tab ∧
    (keep = false → StreamCleared t) ∧ (keep = true → StreamKept s t) ∧
    t.reply = [0] ∧ t.port = s.port ∧ t.opResult = s.opResult

/-- CFG_PRESET (rules R414, R421 and R423): a preset in the table completes with status OK, `MODE` is ACTIVE
and the configuration registers are those DERIVE gives its row; another id is rejected with BAD_PRESET and
changes nothing. The second part holds for every choice of the open parameters. -/
def Obligations.CfgPresetResult : Prop :=
  (∀ (keep : Bool) (id : BitVec 16) (s : State) (p : ParamVec), presetRow params id.toNat = some p →
    ∃ t, exec (.cfgPreset keep id) s = .next t ∧
      t.mode = .active ∧ SameConfig (derive params p s) t ∧ t.noise.tab = s.noise.tab ∧
      (keep = false → StreamCleared t) ∧ (keep = true → StreamKept s t) ∧
      t.reply = [0] ∧ t.port = s.port ∧ t.opResult = s.opResult) ∧
  (∀ (keep : Bool) (id : BitVec 16) (s : State),
    exec (.cfgPreset keep id) s = .next (cfgPreset params keep id s)) ∧
  ∀ (P : Params) (keep : Bool) (id : BitVec 16) (s : State), nPresets P ≤ id.toNat →
    cfgPreset P keep id s = { s with reply := [4] }

/-- CFG_ADVANCED (rules R421 and R424): every vector is accepted, `MODE` is ACTIVE and the configuration
registers are those DERIVE gives the vector. For a vector out of range, to which rule R403 would have a model
give no result, that next state is the model's choice (log entry 9). -/
def Obligations.CfgAdvancedResult : Prop :=
  ∀ (keep : Bool) (p : ParamVec) (s : State), ∃ t, exec (.cfgAdvanced keep p) s = .next t ∧
    t.mode = .active ∧ SameConfig (derive params p s) t ∧ t.noise.tab = s.noise.tab ∧
    (keep = false → StreamCleared t) ∧ (keep = true → StreamKept s t) ∧
    t.reply = [0] ∧ t.port = s.port ∧ t.opResult = s.opResult

/-- CFG_VECTOR that is accepted (rules R144 and R425): in bypass mode it acts as CFG_BYPASS, in preset mode
and in advanced mode as CFG_ADVANCED of the vector selected (out of range: the model's choice, log entry 9). -/
def Obligations.CfgVectorSelectsItsMode : Prop :=
  (∀ (keep : Bool) (v0 : Word) (rest : List Word) (s : State),
    rest.length < 64 → eq32 v0 params.sentinelBypass = true →
    ∃ t, exec (.cfgVector keep (v0 :: rest)) s = .next t ∧ exec (.cfgBypass keep) s = .next t) ∧
  (∀ (keep : Bool) (v0 x : Word) (rest : List Word) (s : State) (neg : Bool) (m : Nat) (e : Int)
      (p : ParamVec),
    rest.length < 63 → eq32 v0 params.sentinelBypass = false → eq32 v0 params.sentinelPreset = true →
    val32 x = .fin neg m e → 0 ≤ truncFin neg m e →
    presetRow params (truncFin neg m e).toNat = some p →
    ∃ t, exec (.cfgVector keep (v0 :: x :: rest)) s = .next t ∧
      exec (.cfgAdvanced keep p) s = .next t) ∧
  ∀ (keep : Bool) (p : ParamVec) (more : List Word) (s : State),
    more.length ≤ 47 → eq32 p.rate params.sentinelBypass = false →
    eq32 p.rate params.sentinelPreset = false →
    ∃ t, exec (.cfgVector keep (p.words ++ more)) s = .next t ∧
      exec (.cfgAdvanced keep p) s = .next t

/-- CFG_VECTOR that is rejected (rules R144, R425 and R451): BAD_LENGTH for an empty vector, one above
`VEC_MAX`, and one too short for its mode; BAD_PRESET for an index that is a NaN, an infinity, or truncates
outside the table. Nothing but the answer changes. -/
def Obligations.CfgVectorRejections : Prop :=
  (∀ (keep : Bool) (s : State), exec (.cfgVector keep []) s = .next { s with reply := [3] }) ∧
  (∀ (keep : Bool) (v : List Word) (s : State), 64 < v.length →
    exec (.cfgVector keep v) s = .next { s with reply := [3] }) ∧
  (∀ (keep : Bool) (v0 : Word) (s : State),
    eq32 v0 params.sentinelBypass = false → eq32 v0 params.sentinelPreset = true →
    exec (.cfgVector keep [v0]) s = .next { s with reply := [3] }) ∧
  (∀ (keep : Bool) (v0 : Word) (rest : List Word) (s : State), rest.length < 16 →
    eq32 v0 params.sentinelBypass = false → eq32 v0 params.sentinelPreset = false →
    exec (.cfgVector keep (v0 :: rest)) s = .next { s with reply := [3] }) ∧
  ∀ (keep : Bool) (v0 x : Word) (rest : List Word) (s : State), rest.length < 63 →
    eq32 v0 params.sentinelBypass = false → eq32 v0 params.sentinelPreset = true →
    (∀ neg m e, val32 x = .fin neg m e →
      truncFin neg m e < 0 ∨ nPresets params ≤ (truncFin neg m e).toNat) →
    exec (.cfgVector keep (v0 :: x :: rest)) s = .next { s with reply := [4] }

/-- Every accepted configuration with parameters, by CFG_PRESET, CFG_ADVANCED or CFG_VECTOR, completes; with
`PRESERVE = 0` the block's state is then a function of the command alone, and repeating the command changes
nothing; with `PRESERVE = 1` the configuration registers and `MODE` are, and stream state is kept with its
cursors reduced (the spec derives this in rule R431). CFG_BYPASS is not among them: it keeps the earlier
registers (rule R422, log entry 25). After a vector out of range the registers are the model's free values,
functions of the vector (log entry 9). The queue and the last internal result are the model's own fields
(log entries 1 and 4). -/
def Obligations.ConfigurationIsIdempotent : Prop :=
  (∀ (i : Instr) (s s' : State), ConfiguresParameters params false i → s.noise.tab = s'.noise.tab →
    ∃ t t', exec i s = .next t ∧ exec i s' = .next t' ∧
      t = { t' with port := t.port, opResult := t.opResult } ∧ exec i t = .next t) ∧
  ∀ (i : Instr) (s s' : State), ConfiguresParameters params true i →
    ∃ t t', exec i s = .next t ∧ exec i s' = .next t' ∧
      SameConfig t t' ∧ t.mode = t'.mode ∧ StreamKept s t ∧ StreamKept s' t'

/-! ## Processing commands -/

/-- The mode dispatch (rule R392): outside ACTIVE the input words pass bit for bit and no state changes; in
ACTIVE a sample is an engine sample. -/
def Obligations.ModeDispatch : Prop :=
  (∀ (s : State), s.mode ≠ .active →
    (∀ a b, exec (.processSample a b) s = .next { s with reply := [0, a, b] }) ∧
    ∀ xs, exec (.processBlock xs) s = .next { s with reply := 0 :: wordsOfPairs xs }) ∧
  ∀ (s : State), s.mode = .active → ∀ x, sampleStep params s x = engineSample params s x

/-- Chunking invariance (the spec derives it in rule R393): blocks processed one after another give the outputs and the state of one
block, a block of no pairs included; PROCESS_SAMPLE is a block of one pair (rule R426). -/
def Obligations.ChunkingInvariance : Prop :=
  (∀ (xss : List (List Pair)) (s t : State) (out : List Word), runBlocks xss s = some (t, out) →
    exec (.processBlock xss.flatten) s = .next { t with reply := 0 :: out }) ∧
  ∀ (a b : Word) (s : State), exec (.processSample a b) s = exec (.processBlock [⟨a, b⟩]) s

/-- PROCESS_SAMPLE and PROCESS_BLOCK in ACTIVE (rules R390, R426 and R427): they complete, the state goes
through one engine sample for each pair in order, and the answer is OK and the outputs in order. -/
def Obligations.ProcessCommandsInActive : Prop :=
  ∀ s : State, Inv params s → s.mode = .active →
    (∀ a b, ∃ (t : State) (y : Pair), EngineSteps s t ⟨a, b⟩ y ∧
      exec (.processSample a b) s = .next { t with reply := [0, y.l, y.r] }) ∧
    ∀ xs, ∃ (t : State) (ys : List Pair), BlockSteps s t xs ys ∧
      exec (.processBlock xs) s = .next { t with reply := 0 :: wordsOfPairs ys }

/-- QUERY_VALID answers 1 exactly when `MODE` is ACTIVE, and changes no state (rule R430). -/
def Obligations.QueryValidResult : Prop :=
  ∀ s : State,
    exec .queryValid s = .next { s with reply := [0, if s.mode = .active then 1 else 0] }

/-! ## Delay lines -/

/-- DL_WRITE (rule R201) on every line, a DL or a part of another: it stores the word at the cursor and
advances it, does nothing to a line of length 0, and leaves everything else. -/
def Obligations.DlWriteResult : Prop :=
  ∀ (d : Place) (c : Ch) (r : LineRole) (x : Word) (s : State),
    lineOfPlace d = some (c, r) → ((s.chan c).line r).Ok (lineCap params r) →
    ∃ t, exec (.dlWrite d x) s = .next t ∧ t.opResult = [] ∧
      ((s.chan c).line r).Writes ((t.chan c).line r) x ∧ Unchanged { lines := [(c, r)] } s t

/-- DL_READ (rules R200 and R202): the word `offset` steps behind the cursor, modulo the logical length; no
state is written but the result. -/
def Obligations.DlReadResult : Prop :=
  ∀ (d : Place) (c : Ch) (r : LineRole) (k : Word) (s : State),
    lineOfPlace d = some (c, r) → ((s.chan c).line r).Ok (lineCap params r) →
    k.toNat < ((s.chan c).line r).size →
    ∃ i, i < ((s.chan c).line r).size ∧
      (i + k.toNat) % ((s.chan c).line r).size = ((s.chan c).line r).cursor ∧
      exec (.dlRead d k) s =
        .next { s with opResult := [Memory.read ((s.chan c).line r).buf i] }

/-- DL_PROCESS (rule R203): the oldest word comes out and the input takes its place; a line of length 0 is a
wire. -/
def Obligations.DlProcessResult : Prop :=
  ∀ (d : Place) (c : Ch) (r : LineRole) (x : Word) (s : State),
    lineOfPlace d = some (c, r) → ((s.chan c).line r).Ok (lineCap params r) →
    ∃ t y, exec (.dlProcess d x) s = .next t ∧ t.opResult = [y] ∧
      ((s.chan c).line r).Delays ((t.chan c).line r) x y ∧ Unchanged { lines := [(c, r)] } s t

/-- The age of a read (the spec derives it in rule R204): after the writes `ws` into a line of length `n` whose cursor was 0 and
whose slots all held `z`, a read at offset `k` gives the word written `k` writes ago (`n` for `k = 0`), and
`z` where there were fewer writes. -/
def Obligations.AgeOfRead : Prop :=
  ∀ (cap : Nat) (d d' : Line) (z : Word) (ws : List Word) (k : Nat),
    d.Ok cap → d.cursor = 0 → (∀ i, i < d.size → Memory.read d.buf i = z) →
    writeAll cap d ws = .ok d' → k < d.size →
    lineRead cap d' k =
      .ok (if (if k = 0 then d.size else k) ≤ ws.length
        then ws.getD (ws.length - (if k = 0 then d.size else k)) z else z)

/-! ## Filters -/

/-- IIR1_PROCESS (rule R220) on every first-order filter. -/
def Obligations.Iir1ProcessResult : Prop :=
  ∀ (f : InstId) (r : Iir1Ref) (x : Word) (s : State), iir1OfId f = some r →
    ∃ t y, exec (.iir1Process f x) s = .next t ∧ t.opResult = [y] ∧
      (s.iir1 r).Steps (t.iir1 r) x y ∧ Unchanged { iir1s := [r] } s t

/-- BQ_PROCESS (rules R240 and R243) on every biquad. -/
def Obligations.BqProcessResult : Prop :=
  ∀ (q : InstId) (c : Ch) (r : BqRole) (x : Word) (s : State), bqOfId q = some (c, r) →
    ∃ t y, exec (.bqProcess q x) s = .next t ∧ t.opResult = [y] ∧
      ((s.chan c).bq r).Steps ((t.chan c).bq r) x y ∧ Unchanged { bqs := [(c, r)] } s t

/-- DCCUT_PROCESS (rule R330) on both channels. -/
def Obligations.DccutProcessResult : Prop :=
  ∀ (d : InstId) (c : Ch) (x : Word) (s : State), dccOfId d = some c →
    ∃ t y, exec (.dccutProcess d x) s = .next t ∧ t.opResult = [y] ∧
      (s.chan c).dccut.Steps (t.chan c).dccut x y ∧ Unchanged { dccs := [c] } s t

/-! ## All-passes and combs -/

/-- AP1_PROCESS (rules R260 and R261) on every plain section with a line of length at least 1. -/
def Obligations.Ap1ProcessResult : Prop :=
  ∀ (a : Place) (c : Ch) (r : Ap1Role) (x : Word) (s : State), ap1OfPlace a = some (c, r) →
    ((s.chan c).ap1 r).line.Ok (lineCap params r.line) → 1 ≤ ((s.chan c).ap1 r).line.size →
    ∃ t y, exec (.ap1Process a x) s = .next t ∧ t.opResult = [y] ∧
      ((s.chan c).ap1 r).Steps ((t.chan c).ap1 r) x y ∧ Unchanged { lines := [(c, r.line)] } s t

/-- AP2_PROCESS (rule R264): two plain sections in series. -/
def Obligations.Ap2ProcessResult : Prop :=
  ∀ (a : InstId) (c : Ch) (x : Word) (s : State), ap2OfId a = some c →
    (s.chan c).cbassAp2.s0.line.Ok (lineCap params .cbassAp2S0) →
    (s.chan c).cbassAp2.s1.line.Ok (lineCap params .cbassAp2S1) →
    1 ≤ (s.chan c).cbassAp2.s0.line.size → 1 ≤ (s.chan c).cbassAp2.s1.line.size →
    ∃ t y, exec (.ap2Process a x) s = .next t ∧ t.opResult = [y] ∧
      (s.chan c).cbassAp2.Steps (t.chan c).cbassAp2 x y ∧
      Unchanged { lines := [(c, .cbassAp2S0), (c, .cbassAp2S1)] } s t

/-- AP3M_PROCESS (rule R265): a plain, a modulated and a plain section in series. -/
def Obligations.Ap3mProcessResult : Prop :=
  ∀ (a : InstId) (c : Ch) (x m : Word) (s : State), ap3mOfId a = some c →
    (s.chan c).cbassAp3.s0.line.Ok (lineCap params .cbassAp3S0) →
    (s.chan c).cbassAp3.s1.Ok (apmCap params .cbassAp3S1) →
    (s.chan c).cbassAp3.s2.line.Ok (lineCap params .cbassAp3S2) →
    1 ≤ (s.chan c).cbassAp3.s0.line.size → 1 ≤ (s.chan c).cbassAp3.s1.size →
    1 ≤ (s.chan c).cbassAp3.s2.line.size →
    ∃ t y, exec (.ap3mProcess a x m) s = .next t ∧ t.opResult = [y] ∧
      (s.chan c).cbassAp3.Steps (t.chan c).cbassAp3 x m y ∧
      Unchanged
        { lines := [(c, .cbassAp3S0), (c, .cbassAp3S2)], apms := [(c, .cbassAp3S1)] } s t

/-- APM_PROCESS (rules R260 and R263) on every modulated section whose window is not empty. -/
def Obligations.ApmProcessResult : Prop :=
  ∀ (a : Place) (c : Ch) (r : ApmRole) (x m : Word) (s : State), apmOfPlace a = some (c, r) →
    ((s.chan c).apm r).Ok (apmCap params r) → 1 ≤ ((s.chan c).apm r).size →
    ∃ t y, exec (.apmProcess a x m) s = .next t ∧ t.opResult = [y] ∧
      ((s.chan c).apm r).Steps ((t.chan c).apm r) x m y ∧ Unchanged { apms := [(c, r)] } s t

/-- The modulation offset (rule R262): its formula; it lies in the window for every modulation word, NaN and
infinities included; it is 0 for a NaN and for -1, half the window rounded down for 0, the last slot for 1. -/
def Obligations.ModulationOffset : Prop :=
  ∀ M : Nat, 1 ≤ M → M < 2 ^ 24 →
    (∀ m : Word,
      let t := mul32 (mul32 (add32 m 0x3F800000) 0x3F000000) (nat32 M)
      (isNaN32 t = true ∨ le32 t 0 = true → modOffset m M = 0) ∧
      (le32 t 0 = false → le32 (nat32 M) t = true → modOffset m M = M - 1) ∧
      (∀ neg n e, val32 t = .fin neg n e → le32 t 0 = false → le32 (nat32 M) t = false →
        (modOffset m M : Int) = floorFin neg n e)) ∧
    (∀ m : Word, modOffset m M < M) ∧
    (∀ m : Word, isNaN32 m = true → modOffset m M = 0) ∧
    modOffset 0xBF800000 M = 0 ∧ modOffset 0 M = M / 2 ∧ modOffset 0x3F800000 M = M - 1

/-- COMB_PROCESS (rule R290) on a comb with a line of length at least 1. -/
def Obligations.CombProcessResult : Prop :=
  ∀ (k : InstId) (c : Ch) (x : Word) (s : State), combOfId k = some c →
    (s.chan c).comb.line.Ok (lineCap params .comb) → 1 ≤ (s.chan c).comb.line.size →
    ∃ t y, exec (.combProcess k x) s = .next t ∧ t.opResult = [y] ∧
      (s.chan c).comb.Steps (t.chan c).comb x y ∧ Unchanged { lines := [(c, .comb)] } s t

/-! ## Noise and oscillators -/

/-- NOISE_NEXT (rule R300): the entry at the cursor, and the cursor moved on by one modulo 2^14. -/
def Obligations.NoiseNextResult : Prop :=
  ∀ (n : InstId) (s : State), isNoiseId n = true → s.noise.tab = noiseTable →
    s.noise.npos < 16384 →
    ∃ t y, exec (.noiseNext n) s = .next t ∧ t.opResult = [y] ∧
      s.noise.tab[s.noise.npos]? = some y ∧ t.noise.npos = (s.noise.npos + 1) % 16384 ∧
      Unchanged { noise := true } s t

/-- NOISE_GENERATE (rules R304 and R305): the table's contents of rule R304, the cursor at 0, nothing else. -/
def Obligations.NoiseGenerateResult : Prop :=
  ∀ (n : InstId) (s : State), isNoiseId n = true →
    exec (.noiseGenerate n) s = .next { s with noise := ⟨noiseTable, 0⟩, opResult := [] }

/-- LFO_STEP (rule R310) on both oscillators, with the renormalisation of every 1024th step. -/
def Obligations.LfoStepResult : Prop :=
  ∀ (l : InstId) (r : LfoRef) (s : State), lfoOfId l = some r →
    ∃ t y, exec (.lfoStep l) s = .next t ∧ t.opResult = [y] ∧
      (s.lfo r).Steps (t.lfo r) y ∧ Unchanged { lfos := [r] } s t

/-! ## Oversampler -/

/-- OS_UP (rule R331): sub-step 0 filters `F * u`, every other sub-step +0.0. That it acts on any biquad
is the model's choice (log entry 14). -/
def Obligations.OsUpResult : Prop :=
  ∀ (q : InstId) (c : Ch) (r : BqRole) (u j : Word) (s : State), bqOfId q = some (c, r) →
    2 ≤ s.eng.factor → j.toNat < s.eng.factor →
    ∃ t y, exec (.osUp q u j) s = .next t ∧ t.opResult = [y] ∧
      ((s.chan c).bq r).Steps ((t.chan c).bq r)
        (if j.toNat = 0 then mul32 (nat32 s.eng.factor) u else 0) y ∧
      Unchanged { bqs := [(c, r)] } s t

/-- OS_DOWN (rule R332): the filter stepped on its input. That it acts on any biquad is the model's choice (log
entry 14). -/
def Obligations.OsDownResult : Prop :=
  ∀ (q : InstId) (c : Ch) (r : BqRole) (z : Word) (s : State), bqOfId q = some (c, r) →
    2 ≤ s.eng.factor →
    ∃ t y, exec (.osDown q z) s = .next t ∧ t.opResult = [y] ∧
      ((s.chan c).bq r).Steps ((t.chan c).bq r) z y ∧ Unchanged { bqs := [(c, r)] } s t

/-! ## Where an internal operation stops -/

/-- A false precondition is a fault of the model (rule R15; which fault is log entries 12 and 15): a line of
length 0 or above its capacity (R202, R261, R290, R455), an offset not below the length (R202), a cursor
beyond the buffer (R100), an empty window or one above the capacity (R263), the same in a section of a cascade
whose earlier sections are in order (R264, R265), `F < 2` or a sub-step not below `F` (R331, R332), the graph's
operations outside ACTIVE (R350, R380, R382, R390), no sub-step at all (R382, log entry 18). -/
def Obligations.FalsePreconditionsFault : Prop :=
  (∀ (d : Place) (c : Ch) (r : LineRole) (k x : Word) (s : State), lineOfPlace d = some (c, r) →
    (((s.chan c).line r).size = 0 → exec (.dlRead d k) s = .fault .emptyLine) ∧
    (lineCap params r < ((s.chan c).line r).size →
      exec (.dlRead d k) s = .fault .lengthAboveCapacity ∧
      exec (.dlWrite d x) s = .fault .lengthAboveCapacity ∧
      exec (.dlProcess d x) s = .fault .lengthAboveCapacity) ∧
    (1 ≤ ((s.chan c).line r).size → ((s.chan c).line r).size ≤ lineCap params r →
      (((s.chan c).line r).size ≤ k.toNat → exec (.dlRead d k) s = .fault .offsetBeyondLength) ∧
      (lineCap params r ≤ ((s.chan c).line r).cursor →
        exec (.dlWrite d x) s = .fault .indexBeyondBuffer))) ∧
  (∀ (a : Place) (c : Ch) (r : Ap1Role) (x : Word) (s : State) (e : Fault), ap1OfPlace a = some (c, r) →
    ((s.chan c).ap1 r).line.stop (lineCap params r.line) = some e →
    exec (.ap1Process a x) s = .fault e) ∧
  (∀ (a : Place) (c : Ch) (r : ApmRole) (x m : Word) (s : State) (e : Fault),
    apmOfPlace a = some (c, r) → ((s.chan c).apm r).stop (apmCap params r) = some e →
    exec (.apmProcess a x m) s = .fault e) ∧
  (∀ (a : InstId) (c : Ch) (x : Word) (s : State) (e : Fault), ap2OfId a = some c →
    ((s.chan c).cbassAp2.s0.line.stop (lineCap params .cbassAp2S0) = some e →
      exec (.ap2Process a x) s = .fault e) ∧
    ((s.chan c).cbassAp2.s0.line.Ok (lineCap params .cbassAp2S0) →
      1 ≤ (s.chan c).cbassAp2.s0.line.size →
      (s.chan c).cbassAp2.s1.line.stop (lineCap params .cbassAp2S1) = some e →
      exec (.ap2Process a x) s = .fault e)) ∧
  (∀ (a : InstId) (c : Ch) (x m : Word) (s : State) (e : Fault), ap3mOfId a = some c →
    ((s.chan c).cbassAp3.s0.line.stop (lineCap params .cbassAp3S0) = some e →
      exec (.ap3mProcess a x m) s = .fault e) ∧
    ((s.chan c).cbassAp3.s0.line.Ok (lineCap params .cbassAp3S0) →
      1 ≤ (s.chan c).cbassAp3.s0.line.size →
      ((s.chan c).cbassAp3.s1.stop (apmCap params .cbassAp3S1) = some e →
        exec (.ap3mProcess a x m) s = .fault e) ∧
      ((s.chan c).cbassAp3.s1.Ok (apmCap params .cbassAp3S1) → 1 ≤ (s.chan c).cbassAp3.s1.size →
        (s.chan c).cbassAp3.s2.line.stop (lineCap params .cbassAp3S2) = some e →
        exec (.ap3mProcess a x m) s = .fault e))) ∧
  (∀ (k : InstId) (c : Ch) (x : Word) (s : State) (e : Fault), combOfId k = some c →
    (s.chan c).comb.line.stop (lineCap params .comb) = some e →
    exec (.combProcess k x) s = .fault e) ∧
  (∀ (q : InstId) (c : Ch) (r : BqRole) (u j z : Word) (s : State), bqOfId q = some (c, r) →
    (s.eng.factor < 2 → exec (.osUp q u j) s = .fault .factorTooSmall ∧
      exec (.osDown q z) s = .fault .factorTooSmall) ∧
    (2 ≤ s.eng.factor → s.eng.factor ≤ j.toNat →
      exec (.osUp q u j) s = .fault .subStepBeyondFactor)) ∧
  ∀ (a b : Word) (s : State),
    (s.mode ≠ .active →
      exec (.erStep a b) s = .fault .notActive ∧ exec (.lateStep a b) s = .fault .notActive ∧
      exec (.lateOsStep a b) s = .fault .notActive ∧
      exec (.engineSample a b) s = .fault .notActive) ∧
    (s.mode = .active → s.eng.factor = 0 → exec (.lateOsStep a b) s = .fault .factorTooSmall)

/-- A primitive operation on an instance that is not of its type stops (rules R40 and R141: `INST` must be of
the operation's type; the stop is the model's, log entry 14). -/
def Obligations.WrongInstancesFault : Prop :=
  ∀ (i : Instr) (s : State), i.wellFormed = false →
    (∀ keep v, i ≠ .cfgVector keep v) → (∀ xs, i ≠ .processBlock xs) →
    exec i s = .fault .wrongInstance

/-! ## The graph -/

/-- ER_STEP (rules R350 and R352): shaping filters, tap sums read before the tap lines are written, cross
pairs on the other channel's taps, image matrix; nothing else is written. -/
def Obligations.ErStepResult : Prop :=
  ∀ (xL xR : Word) (s : State), Inv params s → s.mode = .active →
    ∃ (t : State) (e a : Pair), exec (.erStep xL xR) s = .next t ∧
      t.opResult = [e.l, e.r, a.l, a.r] ∧ ErSteps s t ⟨xL, xR⟩ e a ∧ Unchanged erTouched s t

/-- LATE_STEP (rules R370 to R380): every stage in order, each on its own channel but for the cross-feed's
reads, with the twenty noise draws in order; nothing else is written. -/
def Obligations.LateStepResult : Prop :=
  ∀ (uL uR : Word) (s : State), Inv params s → s.mode = .active →
    ∃ (t : State) (y : Pair), exec (.lateStep uL uR) s = .next t ∧
      t.opResult = [y.l, y.r] ∧ LateSteps s t ⟨uL, uR⟩ y ∧ Unchanged lateTouched s t

/-- LATE_OS_STEP (rules R333 and R382): with `F = 1` one sub-step and no oversampler filter; with `F > 1`,
`F` sub-steps between the two filters, the last output kept. -/
def Obligations.LateOsStepResult : Prop :=
  ∀ (uL uR : Word) (s : State), Inv params s → s.mode = .active →
    ∃ (t : State) (y : Pair),
      exec (.lateOsStep uL uR) s = .next { t with opResult := [y.l, y.r] } ∧
      LateOsSteps s t ⟨uL, uR⟩ y

/-- ENGINE_SAMPLE (rule R390): input delays, early reflections, the late network on the mixed input, and the
final mix; nothing else is written. -/
def Obligations.EngineSampleResult : Prop :=
  ∀ (inL inR : Word) (s : State), Inv params s → s.mode = .active →
    ∃ (t : State) (y : Pair),
      exec (.engineSample inL inR) s = .next { t with opResult := [y.l, y.r] } ∧
      EngineSteps s t ⟨inL, inR⟩ y

/-- What one engine sample advances and stores (the spec derives the counts in rule R383): a line of the late
network steps `F` times, a line before it once, the noise cursor moves by `20 F`, each oscillator's counter by
`F`; no buffer word outside the slots so passed changes. -/
def Obligations.EngineSampleStepCounts : Prop :=
  ∀ (inL inR : Word) (s : State), Inv params s → s.mode = .active →
    ∃ t, exec (.engineSample inL inR) s = .next t ∧
    t.noise.npos = (s.noise.npos + 20 * s.eng.factor) % noiseLen ∧
    (∀ r, (t.lfo r).count = ((s.lfo r).count + s.eng.factor) % lfoRenorm) ∧
    (∀ c r, 1 ≤ ((s.chan c).line r).size →
      ((t.chan c).line r).cursor =
        (((s.chan c).line r).cursor + (if (c, r) ∈ lateTouched.lines then s.eng.factor else 1)) %
          ((s.chan c).line r).size) ∧
    (∀ c r, ((t.chan c).apm r).wpos =
      (((s.chan c).apm r).wpos + s.eng.factor) %
        (((s.chan c).apm r).size + ((s.chan c).apm r).msize)) ∧
    (∀ c r i,
      (∀ j, j < (if (c, r) ∈ lateTouched.lines then s.eng.factor else 1) →
        ((s.chan c).line r).size = 0 ∨
        i ≠ (((s.chan c).line r).cursor + j) % ((s.chan c).line r).size) →
      Memory.read ((t.chan c).line r).buf i = Memory.read ((s.chan c).line r).buf i) ∧
    ∀ c r i,
      (∀ j, j < s.eng.factor →
        i ≠ (((s.chan c).apm r).wpos + j) % (((s.chan c).apm r).size + ((s.chan c).apm r).msize)) →
      Memory.read ((t.chan c).apm r).buf i = Memory.read ((s.chan c).apm r).buf i

/-! ## The deriver -/

/-- DERIVE completes for every vector (out of range: the model's choice, log entry 9), and writes no stream state, no mode, nothing of the noise table and
nothing on the port (rules R400 and R415). -/
def Obligations.DeriveWritesNoStreamState : Prop :=
  ∀ (p : ParamVec) (s : State), ∃ t, exec (.derive p) s = .next t ∧ t.opResult = [] ∧
    SameConfig (derive params p s) t ∧ SameStream s t ∧ t.mode = s.mode ∧
    t.noise.tab = s.noise.tab ∧ t.port = s.port ∧ t.reply = s.reply

/-- DERIVE reads nothing but its vector and the open parameters: the same vector gives the same registers
from every state (rule R400; out of range, the model's free values, log entry 9). -/
def Obligations.DeriveReadsNoRegister : Prop :=
  ∀ (P : Params) (p : ParamVec) (s s' : State), SameConfig (derive P p s) (derive P p s')

/-- The engine's scalars (rule R404): `F` for every vector, the others for a vector in range (rule R403). -/
def Obligations.DerivedScalars : Prop :=
  ∀ (P : Params) (p : ParamVec) (s : State),
    let e := (derive P p s).eng
    let w := P.fnPow10 (div64 (widen p.wet) 0x4034000000000000)
    let half : DWord := 0x3FE0000000000000
    let two : DWord := 0x4000000000000000
    let one : DWord := 0x3FF0000000000000
    (val32 p.oversample = .nan → e.factor = 1) ∧
    (∀ neg, val32 p.oversample = .inf neg → e.factor = if neg then 1 else 4) ∧
    (∀ neg m x, val32 p.oversample = .fin neg m x →
      (e.factor : Int) = min (max (truncFin neg m x) 1) 4) ∧
    (inRange p = true →
      e.rate = p.rate ∧
      e.fsi = mul64 (widen p.rate) (nat64 e.factor) ∧
      e.wet1 = narrow (mul64 w (add64 (div64 (widen p.width) two) half)) ∧
      e.wet2 = narrow (mul64 w (div64 (sub64 one (widen p.width)) two)) ∧
      e.dry = narrow (P.fnPow10 (div64 (widen p.dry) 0x4034000000000000)) ∧
      e.ew1 = narrow (add64 (div64 (widen p.erefwidth) two) half) ∧
      e.ew2 = narrow (div64 (sub64 one (widen p.erefwidth)) two) ∧
      e.ertolate = p.ertolate ∧ e.bassb = p.bassb ∧ e.wander = p.wander)

/-- What TOS computes (rule R405), and every length, window and tap offset of a channel by it (rules R406 to
R409). That they are the formulas' for a vector out of range too, where the spec keeps only the clamps, is the
model's choice (log entry 9). -/
def Obligations.DerivedLengths : Prop :=
  (∀ (t fs : DWord) (lo hi : Nat), lo ≤ hi →
    (val64 (mul64 t fs) = .nan → tos t fs lo hi = lo) ∧
    (lt64 (mul64 t fs) 0 = true → tos t fs lo hi = lo) ∧
    (lt64 (mul64 t fs) 0 = false → le64 (nat64 hi) (mul64 t fs) = true → tos t fs lo hi = hi) ∧
    ∀ neg m e, val64 (mul64 t fs) = .fin neg m e → lt64 (mul64 t fs) 0 = false →
      le64 (nat64 hi) (mul64 t fs) = false →
      (tos t fs lo hi : Int) = min (max (floorFin neg m e) lo) hi) ∧
  ∀ (P : Params) (p : ParamVec) (s : State) (c : Ch),
    let x := (derive P p s).chan c
    let t := P.topo.ch c
    let rate := widen p.rate
    let fsi := mul64 rate (nat64 (factorOf p.oversample))
    let er := widen p.ereffactor
    let window (a : Apm) (ts tm : DWord) (cap : Nat) : Prop :=
      a.size = tos ts fsi 1 (cap - 1) ∧
      a.msize = tos (mul64 (widen p.wander) tm) fsi 1 (cap - a.size)
    (le64 0 (widen p.delay) = true →
      x.preWet.size = tos (widen p.delay) rate 0 P.capPre ∧ x.preDry.size = 0) ∧
    (le64 0 (widen p.delay) = false →
      x.preWet.size = 0 ∧ x.preDry.size = tos (neg64 (widen p.delay)) rate 0 P.capPre) ∧
    x.erTap.size = P.capErTap ∧
    x.erXdelay.size = tos (mul64 t.erXdelayS er) rate 0 P.capErXdelay ∧
    x.erXap.line.size = tos (mul64 t.erXapS er) rate 1 P.capErXap ∧
    (t.erTaps.length ≤ 18 → x.nTaps.val = t.erTaps.length) ∧
    (∀ k : Fin 18, x.taps[k].off =
      match t.erTaps[k.val]? with
      | some e => tos (mul64 e.1 er) rate 1 (P.capErTap - 1)
      | none => 0) ∧
    x.crossDelay.size = tos t.crossS fsi 1 P.capCross ∧
    x.dampDelay.size = tos t.dampDelayS fsi 0 P.capDampDelay ∧
    x.cbassD1.size = tos t.cbassD1S fsi 0 P.capCbassD1 ∧
    x.cbassD2.size = tos t.cbassD2S fsi 0 P.capCbassD2 ∧
    x.outDelay.size = tos t.outDelayS fsi 0 P.capOutDelay ∧
    x.cbassAp2.s0.line.size = tos t.cbassAp2S0 fsi 1 P.capCbassAp2S0 ∧
    x.cbassAp2.s1.line.size = tos t.cbassAp2S1 fsi 1 P.capCbassAp2S1 ∧
    x.cbassAp3.s0.line.size = tos t.cbassAp3S0 fsi 1 P.capCbassAp3S0 ∧
    x.cbassAp3.s2.line.size = tos t.cbassAp3S2 fsi 1 P.capCbassAp3S2 ∧
    x.comb.line.size = tos t.combS fsi 1 P.capComb ∧
    (∀ i : Fin 10, window x.diff[i] t.diffS[i] t.diffModS[i] P.capDiff[i]) ∧
    window x.dampAp1 t.dampAp1S t.dampAp1ModS P.capDampAp1 ∧
    window x.dampAp2 t.dampAp2S t.dampAp2ModS P.capDampAp2 ∧
    window x.cbassAp3.s1 t.cbassAp3S1 t.cbassAp3ModS P.capCbassAp3S1

/-- Every feedback, decay, tap gain and filter coefficient of a channel (rules R221, R222, R241, R242 and
R405 to R412), for a vector in range. -/
def Obligations.DerivedCoefficients : Prop :=
  ∀ (P : Params) (p : ParamVec) (s : State) (c : Ch), inRange p = true →
    let x := (derive P p s).chan c
    let t := P.topo.ch c
    let rate := widen p.rate
    let fsi := mul64 rate (nat64 (factorOf p.oversample))
    let one : DWord := 0x3FF0000000000000
    let two : DWord := 0x4000000000000000
    let decay (n : Nat) : Word :=
      narrow (P.fnPow10 (div64 (mul64 0xC008000000000000 (nat64 n)) (mul64 (widen p.rt60) fsi)))
    let pole (fc fs : DWord) : DWord := P.fnExp (div64 (neg64 (mul64 0x401921FB54442D18 fc)) fs)
    let lowpass (f : Iir1) (fc fs : DWord) : Prop :=
      f.b0 = narrow (sub64 one (pole fc fs)) ∧ f.b1 = 0 ∧ f.a1 = narrow (pole fc fs)
    let alpha (fc fs : DWord) : DWord :=
      div64 (P.fnSin (div64 (mul64 0x401921FB54442D18 fc) fs)) (mul64 two 0x3FE6A09E667F3BCD)
    let cw (fc fs : DWord) : DWord := P.fnCos (div64 (mul64 0x401921FB54442D18 fc) fs)
    let a0 (fc fs : DWord) : DWord := add64 one (alpha fc fs)
    let bqLow (q : Bq) (fc fs : DWord) : Prop :=
      q.b0 = narrow (div64 (div64 (sub64 one (cw fc fs)) two) (a0 fc fs)) ∧
      q.b1 = narrow (div64 (sub64 one (cw fc fs)) (a0 fc fs)) ∧ q.b2 = q.b0 ∧
      q.a1 = narrow (div64 (mul64 (neg64 two) (cw fc fs)) (a0 fc fs)) ∧
      q.a2 = narrow (div64 (sub64 one (alpha fc fs)) (a0 fc fs))
    let section1 (a : Ap1) (g : Word) : Prop := a.g = g ∧ a.decay = decay a.line.size
    let modulated (a : Apm) (g : Word) : Prop := a.g = g ∧ a.decay = decay a.size
    (∀ k : Fin 18, x.taps[k].gain = (t.erTaps[k.val]?.map Prod.snd).getD 0) ∧
    (x.erXap.g = P.topo.erXapG ∧ x.erXap.decay = 0x3F800000) ∧
    section1 x.cbassAp2.s0 P.topo.cbassAp2G0 ∧ section1 x.cbassAp2.s1 P.topo.cbassAp2G1 ∧
    section1 x.cbassAp3.s0 P.topo.cbassAp3G0 ∧ section1 x.cbassAp3.s2 P.topo.cbassAp3G2 ∧
    x.comb.fb = decay x.comb.line.size ∧
    (∀ i : Fin 10, modulated x.diff[i] P.topo.diffG[i]) ∧
    modulated x.dampAp1 P.topo.dampAp1G ∧ modulated x.dampAp2 P.topo.dampAp2G ∧
    modulated x.cbassAp3.s1 P.topo.cbassAp3G1 ∧
    lowpass x.erLpf (widen p.inputlpf) rate ∧
    (x.erHpf.b0 = narrow (div64 (add64 one (pole P.topo.erHpfHz rate)) two) ∧
      x.erHpf.b1 = neg32 x.erHpf.b0 ∧ x.erHpf.a1 = narrow (pole P.topo.erHpfHz rate)) ∧
    lowpass x.crossLpf (widen p.damplpf) fsi ∧ lowpass x.dampLpf (widen p.damplpf) fsi ∧
    (x.bassAp.b0 = narrow (div64 (sub64 one (alpha (widen p.basslpf) fsi)) (a0 (widen p.basslpf) fsi)) ∧
      x.bassAp.b1 =
        narrow (div64 (mul64 (neg64 two) (cw (widen p.basslpf) fsi)) (a0 (widen p.basslpf) fsi)) ∧
      x.bassAp.b2 =
        narrow (div64 (add64 one (alpha (widen p.basslpf) fsi)) (a0 (widen p.basslpf) fsi)) ∧
      x.bassAp.a1 = x.bassAp.b1 ∧ x.bassAp.a2 = x.bassAp.b0) ∧
    bqLow x.bassLpf (widen p.basslpf) fsi ∧ bqLow x.outLpf (widen p.outputlpf) fsi ∧
    bqLow x.osUp (mul64 0x3FDCCCCCCCCCCCCD rate) fsi ∧
    bqLow x.osDown (mul64 0x3FDCCCCCCCCCCCCD rate) fsi ∧
    x.dccut.r =
      narrow (P.fnExp (div64 (neg64 (mul64 0x401921FB54442D18 0x4014000000000000)) fsi))

/-- The oscillators' rotations and their smoothers (rule R413), for a vector in range. -/
def Obligations.DerivedOscillators : Prop :=
  ∀ (P : Params) (p : ParamVec) (s : State), inRange p = true →
    let t := derive P p s
    let fsi := mul64 (widen p.rate) (nat64 (factorOf p.oversample))
    let w1 := div64 (mul64 0x401921FB54442D18 (widen p.spin)) fsi
    let w2 := div64 (mul64 0x401921FB54442D18 (mul64 (widen p.spin) 0x3FE3C6EF3D3A1D32)) fsi
    let pole := P.fnExp (div64 (neg64 (mul64 0x401921FB54442D18 0x4034000000000000)) fsi)
    t.lfo1.c = narrow (P.fnCos w1) ∧ t.lfo1.s = narrow (P.fnSin w1) ∧
    t.lfo2.c = narrow (P.fnCos w2) ∧ t.lfo2.s = narrow (P.fnSin w2) ∧
    (t.lfo1Lpf.b0 = narrow (sub64 0x3FF0000000000000 pole) ∧ t.lfo1Lpf.b1 = 0 ∧
      t.lfo1Lpf.a1 = narrow pole) ∧
    (t.lfo2Lpf.b0 = narrow (sub64 0x3FF0000000000000 pole) ∧ t.lfo2Lpf.b1 = 0 ∧
      t.lfo2Lpf.a1 = narrow pole)

/-- What the deriver's clamps establish for every lawful choice of the open parameters and every vector, in
range or not: the factor is 1 to 4, every length is within its capacity, and both channels are ready for the
graph (rules R16, R403, R406 to R409). -/
def Obligations.DerivedStructureIsWithinBounds : Prop :=
  ∀ (P : Params) (p : ParamVec) (s : State), paramsOk P = true →
    (1 ≤ (derive P p s).eng.factor ∧ (derive P p s).eng.factor ≤ 4) ∧
    ∀ c, ((derive P p s).chan c).Ready P ∧
      (∀ r, (((derive P p s).chan c).line r).size ≤ lineCap P r) ∧
      ∀ r, (((derive P p s).chan c).apm r).size + (((derive P p s).chan c).apm r).msize ≤ apmCap P r
end

