-- ==== Sys2Proof/Laws/Memory.lean ====
section
/-! SUPPORT. The laws of a buffer: a read after a write, the canonical form, and which indices are listed. -/

namespace Sys2Proof.Machine

/-! ## The canonical form -/

theorem Memory.wfFrom_cons {lo a : Nat} {w : Word} {t : Memory} :
    Memory.wfFrom lo ((a, w) :: t) = true ↔
      lo ≤ a ∧ w ≠ Memory.unlisted ∧ Memory.wfFrom (a + 1) t = true := by
  simp [Memory.wfFrom, and_assoc]

theorem Memory.wfFrom_mono {lo lo' : Nat} {m : Memory} (h : lo' ≤ lo)
    (hm : Memory.wfFrom lo m = true) : Memory.wfFrom lo' m = true := by
  cases m with
  | nil => rfl
  | cons e t =>
    obtain ⟨a, w⟩ := e
    rw [Memory.wfFrom_cons] at hm ⊢
    exact ⟨h.trans hm.1, hm.2⟩

/-- A write keeps the canonical form. -/
theorem Memory.wfFrom_write {lo : Nat} {m : Memory} {i : Nat} {v : Word} (hi : lo ≤ i)
    (hm : Memory.wfFrom lo m = true) : Memory.wfFrom lo (Memory.write m i v) = true := by
  induction m generalizing lo with
  | nil =>
    unfold Memory.write
    split
    · rfl
    · exact Memory.wfFrom_cons.mpr ⟨hi, ‹_›, rfl⟩
  | cons e t ih =>
    obtain ⟨a, w⟩ := e
    obtain ⟨ha, hw, ht⟩ := Memory.wfFrom_cons.mp hm
    unfold Memory.write
    split
    · split
      · exact hm
      · exact Memory.wfFrom_cons.mpr ⟨hi, ‹_›, Memory.wfFrom_cons.mpr ⟨‹_›, hw, ht⟩⟩
    · split
      · split
        · exact Memory.wfFrom_mono (by omega) ht
        · exact Memory.wfFrom_cons.mpr ⟨ha, ‹_›, ht⟩
      · exact Memory.wfFrom_cons.mpr ⟨ha, hw, ih (by omega) ht⟩

/-- A write keeps the canonical form. -/
theorem Memory.wf_write {m : Memory} (i : Nat) (v : Word) (hm : Memory.wf m = true) :
    Memory.wf (Memory.write m i v) = true :=
  Memory.wfFrom_write (Nat.zero_le i) hm

/-- A buffer with nothing listed is in the canonical form. -/
theorem Memory.wf_nil : Memory.wf [] = true := rfl

/-- A write lists no index but its own. -/
theorem Memory.mem_write {m : Memory} {i : Nat} {v : Word} {e : Nat × Word}
    (h : e ∈ Memory.write m i v) : e ∈ m ∨ e = (i, v) := by
  induction m with
  | nil =>
    unfold Memory.write at h
    split at h <;> simp_all
  | cons p t ih =>
    obtain ⟨a, w⟩ := p
    unfold Memory.write at h
    split at h
    · split at h
      · exact .inl h
      · rcases List.mem_cons.mp h with h | h
        · exact .inr h
        · exact .inl h
    · split at h
      · split at h
        · exact .inl (List.mem_cons_of_mem _ h)
        · rcases List.mem_cons.mp h with h | h
          · exact .inr (by rw [h, ‹i = a›])
          · exact .inl (List.mem_cons_of_mem _ h)
      · rcases List.mem_cons.mp h with h | h
        · exact .inl (by simp [h])
        · exact (ih h).imp (List.mem_cons_of_mem _) id

/-! ## Reads after writes -/

/-- An index below every listed one reads as unlisted. -/
theorem Memory.read_of_lt {lo : Nat} {m : Memory} {i : Nat} (hm : Memory.wfFrom lo m = true)
    (hi : i < lo) : Memory.read m i = Memory.unlisted := by
  induction m generalizing lo with
  | nil => rfl
  | cons e t ih =>
    obtain ⟨a, w⟩ := e
    obtain ⟨ha, _, ht⟩ := Memory.wfFrom_cons.mp hm
    unfold Memory.read
    rw [if_neg (by omega)]
    exact ih ht (by omega)

theorem Memory.read_cons (a : Nat) (w : Word) (t : Memory) (j : Nat) :
    Memory.read ((a, w) :: t) j = if j = a then w else Memory.read t j := rfl

/-- A read after a write: the word written at its index, every other word as before. -/
theorem Memory.read_writeFrom {lo : Nat} {m : Memory} {i : Nat} {v : Word}
    (hm : Memory.wfFrom lo m = true) (j : Nat) :
    Memory.read (Memory.write m i v) j = if j = i then v else Memory.read m j := by
  induction m generalizing lo with
  | nil =>
    unfold Memory.write
    split <;> by_cases hj : j = i <;> simp_all [Memory.read]
  | cons e t ih =>
    obtain ⟨a, w⟩ := e
    obtain ⟨ha, hw, ht⟩ := Memory.wfFrom_cons.mp hm
    unfold Memory.write
    split
    · split
      · by_cases hj : j = i
        · rw [if_pos hj, hj, Memory.read_cons, if_neg (by omega), Memory.read_of_lt ht (by omega)]
          simp_all
        · rw [if_neg hj]
      · rw [Memory.read_cons]
    · split
      · split
        · by_cases hj : j = i
          · rw [if_pos hj, Memory.read_of_lt ht (by omega)]
            simp_all
          · rw [if_neg hj, Memory.read_cons, if_neg (by omega)]
        · rw [Memory.read_cons, Memory.read_cons]
          by_cases hj : j = a <;> simp_all
      · rw [Memory.read_cons, Memory.read_cons, ih ht]
        by_cases hj : j = a
        · rw [if_pos hj, if_neg (by omega), if_pos hj]
        · rw [if_neg hj, if_neg hj]

/-- A read after a write: the word written at its index, every other word as before. -/
theorem Memory.stores_write {m : Memory} (i : Nat) (v : Word) (hm : Memory.wf m = true) :
    Stores m (Memory.write m i v) i v :=
  fun j => Memory.read_writeFrom hm j

/-- Every index of an empty buffer reads +0.0. -/
@[simp] theorem Memory.read_nil (i : Nat) : Memory.read [] i = 0 := rfl

/-- After reset every buffer is in the canonical form. -/
theorem State.reset_wf (c : Ch) :
    (∀ r, Memory.wf ((State.reset.chan c).line r).buf = true) ∧
      ∀ r, Memory.wf ((State.reset.chan c).apm r).buf = true := by
  constructor
  · intro r
    cases c <;> rcases r with ⟨_ | _ | _ | _ | _ | _ | _ | _ | _⟩ | _ | _ | _ | _ | _ | _ <;> rfl
  · intro r
    cases c <;> rcases r with i | _ | _ | _ <;>
      simp [State.reset, State.chan, Chan.reset, Chan.apm, Apm.reset, Ap3m.reset, Memory.wf_nil]

end Sys2Proof.Machine
end

