-- ==== Sys2Proof/Laws/Configuration.lean ====
section
/-! SUPPORT. What clearing and keeping stream state do (rule R421), through the accessors. -/

namespace Sys2Proof.Machine

/-- Clearing a channel clears each of its lines. -/
@[simp] theorem Chan.clear_line (x : Chan) (r : LineRole) : (x.clear).line r = (x.line r).clear := by
  rcases r with ⟨_|_|_|_|_|_|_|_|_⟩|_|_|_|_|_|_ <;> rfl

/-- Clearing a channel clears each of its modulated all-passes. -/
@[simp] theorem Chan.clear_apm (x : Chan) (r : ApmRole) : (x.clear).apm r = (x.apm r).clear := by
  rcases r with i|_|_|_ 
  · simp [Chan.apm, Chan.clear]
  all_goals rfl

/-- Reducing a channel's positions reduces each line's cursor. -/
@[simp] theorem Chan.reduce_line (x : Chan) (r : LineRole) : (x.reduce).line r = (x.line r).reduce := by
  rcases r with ⟨_|_|_|_|_|_|_|_|_⟩|_|_|_|_|_|_ <;> rfl

/-- Reducing a channel's positions reduces each modulated all-pass's. -/
@[simp] theorem Chan.reduce_apm (x : Chan) (r : ApmRole) : (x.reduce).apm r = (x.apm r).reduce := by
  rcases r with i|_|_|_ 
  · simp [Chan.apm, Chan.reduce]
  all_goals rfl

/-- Clearing stream state writes no configuration register (rules R42 and R421). -/
theorem State.clearStream_sameConfig (s : State) : SameConfig s s.clearStream := by
  constructor
  all_goals try (intro c; cases c <;> rfl)
  · rfl
  · intro c r; cases c <;> simp [State.clearStream, State.chan, Chan.clear_line, Line.clear]
  · intro c r; cases c <;> cases r <;> exact ⟨rfl, rfl⟩
  · intro c r; cases c <;> simp [State.clearStream, State.chan, Chan.clear_apm, Apm.clear]
  · intro r; rcases r with ⟨_|_, _|_|_|_⟩|_|_ <;> exact ⟨rfl, rfl, rfl⟩
  · intro c r; cases c <;> cases r <;> exact ⟨rfl, rfl, rfl, rfl, rfl⟩
  · intro r; cases r <;> exact ⟨rfl, rfl⟩

/-- After clearing, every element of stream state has its reset value (rule R421). -/
theorem State.clearStream_cleared (s : State) : StreamCleared s.clearStream := by
  constructor
  · intro c r; cases c <;> simp [State.clearStream, State.chan, Chan.clear_line, Line.clear, Memory.read_nil]
  · intro c r; cases c <;> simp [State.clearStream, State.chan, Chan.clear_apm, Apm.clear, Memory.read_nil]
  · intro r; rcases r with ⟨_|_, _|_|_|_⟩|_|_ <;> exact ⟨rfl, rfl⟩
  · intro c r; cases c <;> cases r <;> exact ⟨rfl, rfl, rfl, rfl⟩
  · intro c; cases c <;> exact ⟨rfl, rfl⟩
  · rfl
  · intro r; cases r <;> exact ⟨rfl, rfl, rfl⟩

/-- Reducing the cursors keeps every other element of stream state (rules R205 and R421). -/
theorem State.reduceCursors_kept (s : State) : StreamKept s s.reduceCursors := by
  constructor
  · intro c r; cases c <;> simp [State.reduceCursors, State.chan, Chan.reduce_line, Line.reduce, modLength, reduce]
  · intro c r; cases c <;> simp [State.reduceCursors, State.chan, Chan.reduce_apm, Apm.reduce, modLength, reduce]
  · intro r; rcases r with ⟨_|_, _|_|_|_⟩|_|_ <;> exact ⟨rfl, rfl⟩
  · intro c r; cases c <;> cases r <;> exact ⟨rfl, rfl, rfl, rfl⟩
  · intro c; cases c <;> exact ⟨rfl, rfl⟩
  · rfl
  · intro r; cases r <;> exact ⟨rfl, rfl, rfl⟩

/-- Reducing the cursors writes no configuration register (rule R421). -/
theorem State.reduceCursors_sameConfig (s : State) : SameConfig s s.reduceCursors := by
  constructor
  all_goals try (intro c; cases c <;> rfl)
  · rfl
  · intro c r; cases c <;> simp [State.reduceCursors, State.chan, Chan.reduce_line, Line.reduce]
  · intro c r; cases c <;> cases r <;> exact ⟨rfl, rfl⟩
  · intro c r; cases c <;> simp [State.reduceCursors, State.chan, Chan.reduce_apm, Apm.reduce]
  · intro r; rcases r with ⟨_|_, _|_|_|_⟩|_|_ <;> exact ⟨rfl, rfl, rfl⟩
  · intro c r; cases c <;> cases r <;> exact ⟨rfl, rfl, rfl, rfl, rfl⟩
  · intro r; cases r <;> exact ⟨rfl, rfl⟩

/-! ## The parts of a state that neither clearing nor reducing writes -/

@[simp] theorem State.clearStream_mode (s : State) : s.clearStream.mode = s.mode := rfl
@[simp] theorem State.clearStream_noise_tab (s : State) : s.clearStream.noise.tab = s.noise.tab := rfl
@[simp] theorem State.clearStream_port (s : State) : s.clearStream.port = s.port := rfl
@[simp] theorem State.clearStream_reply (s : State) : s.clearStream.reply = s.reply := rfl
@[simp] theorem State.clearStream_opResult (s : State) : s.clearStream.opResult = s.opResult := rfl
@[simp] theorem State.reduceCursors_mode (s : State) : s.reduceCursors.mode = s.mode := rfl
@[simp] theorem State.reduceCursors_noise (s : State) : s.reduceCursors.noise = s.noise := rfl
@[simp] theorem State.reduceCursors_port (s : State) : s.reduceCursors.port = s.port := rfl
@[simp] theorem State.reduceCursors_reply (s : State) : s.reduceCursors.reply = s.reply := rfl
@[simp] theorem State.reduceCursors_opResult (s : State) : s.reduceCursors.opResult = s.opResult := rfl

end Sys2Proof.Machine
end

