-- ==== Sys2Proof/Laws/PerInstr.lean ====
section
/-! SUPPORT. A statement for each instruction: the record it is written as carries its opcode
(rules R131, R132, R140 and R141). -/

namespace Sys2Proof

/-- The opcode of an instruction (rules R140 and R141). -/
def Instr.opcode : Instr → Nat
  | .reset => 0x01
  | .cfgBypass _ => 0x02
  | .cfgPreset _ _ => 0x03
  | .cfgAdvanced _ _ => 0x04
  | .cfgVector _ _ => 0x05
  | .processSample _ _ => 0x06
  | .processBlock _ => 0x07
  | .queryValid => 0x08
  | .dlWrite _ _ => 0x10
  | .dlRead _ _ => 0x11
  | .dlProcess _ _ => 0x12
  | .iir1Process _ _ => 0x13
  | .bqProcess _ _ => 0x14
  | .ap1Process _ _ => 0x15
  | .ap2Process _ _ => 0x16
  | .ap3mProcess _ _ _ => 0x17
  | .apmProcess _ _ _ => 0x18
  | .combProcess _ _ => 0x19
  | .noiseNext _ => 0x1A
  | .noiseGenerate _ => 0x1B
  | .lfoStep _ => 0x1C
  | .dccutProcess _ _ => 0x1D
  | .osUp _ _ _ => 0x1E
  | .osDown _ _ => 0x1F
  | .erStep _ _ => 0x20
  | .lateStep _ _ => 0x21
  | .lateOsStep _ _ => 0x22
  | .engineSample _ _ => 0x23
  | .derive _ => 0x24

namespace Laws

theorem opOf_headerH (op : BitVec 8) (keep : Bool) (imm : BitVec 16) :
    opOf (headerH op keep imm) = op.toNat := by
  have h : (headerH op keep imm).extractLsb' 0 8 = op := by
    apply BitVec.eq_of_getLsbD_eq
    intro i hi
    simp only [headerH, BitVec.getLsbD_extractLsb', BitVec.getLsbD_append, Nat.zero_add]
    simp [hi]
  rw [opOf, h]

theorem opOf_headerI (op : BitVec 8) (inst : InstId) : opOf (headerI op inst) = op.toNat := by
  have h : (headerI op inst).extractLsb' 0 8 = op := by
    apply BitVec.eq_of_getLsbD_eq
    intro i hi
    simp only [headerI, BitVec.getLsbD_extractLsb', BitVec.getLsbD_append, Nat.zero_add]
    simp [hi]
  rw [opOf, h]

/-- The header of the record carries the instruction's opcode. -/
def Encoding.Statement (i : Instr) : Prop := opOf (encode i).header = i.opcode

theorem Encoding.reset :
    Encoding.Statement .reset := opOf_headerH _ _ _

theorem Encoding.cfgBypass (keep : Bool) :
    Encoding.Statement (.cfgBypass keep) := opOf_headerH _ _ _

theorem Encoding.cfgPreset (keep : Bool) (id : BitVec 16) :
    Encoding.Statement (.cfgPreset keep id) := opOf_headerH _ _ _

theorem Encoding.cfgAdvanced (keep : Bool) (p : ParamVec) :
    Encoding.Statement (.cfgAdvanced keep p) := opOf_headerH _ _ _

theorem Encoding.cfgVector (keep : Bool) (v : List Word) :
    Encoding.Statement (.cfgVector keep v) := opOf_headerH _ _ _

theorem Encoding.processSample (inL inR : Word) :
    Encoding.Statement (.processSample inL inR) := opOf_headerH _ _ _

theorem Encoding.processBlock (xs : List Pair) :
    Encoding.Statement (.processBlock xs) := opOf_headerH _ _ _

theorem Encoding.queryValid :
    Encoding.Statement .queryValid := opOf_headerH _ _ _

theorem Encoding.dlWrite (d : Place) (x : Word) :
    Encoding.Statement (.dlWrite d x) := opOf_headerI _ _

theorem Encoding.dlRead (d : Place) (offset : Word) :
    Encoding.Statement (.dlRead d offset) := opOf_headerI _ _

theorem Encoding.dlProcess (d : Place) (x : Word) :
    Encoding.Statement (.dlProcess d x) := opOf_headerI _ _

theorem Encoding.iir1Process (f : InstId) (x : Word) :
    Encoding.Statement (.iir1Process f x) := opOf_headerI _ _

theorem Encoding.bqProcess (q : InstId) (x : Word) :
    Encoding.Statement (.bqProcess q x) := opOf_headerI _ _

theorem Encoding.ap1Process (a : Place) (x : Word) :
    Encoding.Statement (.ap1Process a x) := opOf_headerI _ _

theorem Encoding.ap2Process (a : InstId) (x : Word) :
    Encoding.Statement (.ap2Process a x) := opOf_headerI _ _

theorem Encoding.ap3mProcess (a : InstId) (x m : Word) :
    Encoding.Statement (.ap3mProcess a x m) := opOf_headerI _ _

theorem Encoding.apmProcess (a : Place) (x m : Word) :
    Encoding.Statement (.apmProcess a x m) := opOf_headerI _ _

theorem Encoding.combProcess (c : InstId) (x : Word) :
    Encoding.Statement (.combProcess c x) := opOf_headerI _ _

theorem Encoding.noiseNext (n : InstId) :
    Encoding.Statement (.noiseNext n) := opOf_headerI _ _

theorem Encoding.noiseGenerate (n : InstId) :
    Encoding.Statement (.noiseGenerate n) := opOf_headerI _ _

theorem Encoding.lfoStep (l : InstId) :
    Encoding.Statement (.lfoStep l) := opOf_headerI _ _

theorem Encoding.dccutProcess (d : InstId) (x : Word) :
    Encoding.Statement (.dccutProcess d x) := opOf_headerI _ _

theorem Encoding.osUp (q : InstId) (u j : Word) :
    Encoding.Statement (.osUp q u j) := opOf_headerI _ _

theorem Encoding.osDown (q : InstId) (z : Word) :
    Encoding.Statement (.osDown q z) := opOf_headerI _ _

theorem Encoding.erStep (xL xR : Word) :
    Encoding.Statement (.erStep xL xR) := opOf_headerI _ _

theorem Encoding.lateStep (uL uR : Word) :
    Encoding.Statement (.lateStep uL uR) := opOf_headerI _ _

theorem Encoding.lateOsStep (uL uR : Word) :
    Encoding.Statement (.lateOsStep uL uR) := opOf_headerI _ _

theorem Encoding.engineSample (inL inR : Word) :
    Encoding.Statement (.engineSample inL inR) := opOf_headerI _ _

theorem Encoding.derive (p : ParamVec) :
    Encoding.Statement (.derive p) := opOf_headerI _ _

end Laws
end Sys2Proof
end

