-- ==== Sys2Proof/Laws/Decode.lean ====
section
/-! SUPPORT. The fields of a header that was put together, words and pairs there and back, and what the two
payload decoders answer for each opcode: later proofs cite these and unfold neither match. -/

namespace Sys2Proof

/-! ## Header fields -/

theorem rsvOf_headerH (op : BitVec 8) (keep : Bool) (imm : BitVec 16) :
    rsvOf (headerH op keep imm) = 0 := by
  apply BitVec.eq_of_getLsbD_eq
  intro i hi
  simp only [rsvOf, headerH, BitVec.getLsbD_extractLsb', BitVec.getLsbD_append]
  have h1 : ¬ 9 + i < 8 := by omega
  have h2 : ¬ 9 + i - 8 < 1 := by omega
  have h3 : 9 + i - 8 - 1 < 7 := by omega
  simp [h1, h2, h3]

theorem preserveOf_headerH (op : BitVec 8) (keep : Bool) (imm : BitVec 16) :
    preserveOf (headerH op keep imm) = keep := by
  simp only [preserveOf, headerH, BitVec.getLsbD_append]
  cases keep <;> rfl

theorem immOf_headerH (op : BitVec 8) (keep : Bool) (imm : BitVec 16) :
    immOf (headerH op keep imm) = imm := by
  apply BitVec.eq_of_getLsbD_eq
  intro i hi
  simp only [immOf, headerH, BitVec.getLsbD_extractLsb', BitVec.getLsbD_append]
  have h1 : ¬ 16 + i < 8 := by omega
  have h2 : ¬ 16 + i - 8 < 1 := by omega
  have h3 : ¬ 16 + i - 8 - 1 < 7 := by omega
  have h4 : 16 + i - 8 - 1 - 7 = i := by omega
  simp [h1, h2, h3, h4, hi]

theorem instFieldOf_headerI (op : BitVec 8) (id : InstId) : instFieldOf (headerI op id) = id := by
  apply BitVec.eq_of_getLsbD_eq
  intro i hi
  simp only [instFieldOf, headerI, BitVec.getLsbD_extractLsb', BitVec.getLsbD_append]
  have h1 : ¬ 8 + i < 8 := by omega
  simp [h1, hi]

/-- A header whose reserved field is 0 is put together from its other fields. -/
theorem headerH_of_fields (h : Word) (hr : rsvOf h = 0) :
    h = headerH (BitVec.ofNat 8 (opOf h)) (preserveOf h) (immOf h) := by
  apply BitVec.eq_of_getLsbD_eq
  intro i hi
  simp only [headerH, BitVec.getLsbD_append, opOf, BitVec.ofNat_toNat, BitVec.setWidth_eq, preserveOf,
    immOf, BitVec.getLsbD_extractLsb']
  by_cases h1 : i < 8
  · simp [h1]
  · simp only [h1, if_false]
    by_cases h2 : i - 8 < 1
    · have : i = 8 := by omega
      subst this; simp
    · simp only [h2, if_false]
      by_cases h3 : i - 8 - 1 < 7
      · simp only [h3, if_true]
        have hb := congrArg (fun b => b.getLsbD (i - 9)) hr
        simp only [rsvOf, BitVec.getLsbD_extractLsb'] at hb
        have e : 9 + (i - 9) = i := by omega
        have e2 : i - 9 < 7 := by omega
        rw [e] at hb
        simpa [e2] using hb
      · simp only [h3, if_false]
        have e : 16 + (i - 8 - 1 - 7) = i := by omega
        have e2 : i - 8 - 1 - 7 < 16 := by omega
        simp [e, e2]

/-! ## Parameters and pairs -/

@[simp] theorem paramsOfWords_words (p : ParamVec) : paramsOfWords p.words = some p := rfl

@[simp] theorem ParamVec.words_length (p : ParamVec) : p.words.length = 17 := rfl

theorem words_of_paramsOfWords {ws : List Word} {p : ParamVec} (h : paramsOfWords ws = some p) :
    p.words = ws := by
  unfold paramsOfWords at h
  split at h
  · cases h; rfl
  · cases h

/-- Seventeen words are a parameter vector. -/
theorem paramsOfWords_isSome {ws : List Word} (h : ws.length = 17) :
    ∃ p, paramsOfWords ws = some p := by
  match ws, h with
  | [w0, w1, w2, w3, w4, w5, w6, w7, w8, w9, w10, w11, w12, w13, w14, w15, w16], _ =>
    exact ⟨_, rfl⟩

theorem paramsOfWords_eq_none {ws : List Word} (h : ws.length ≠ 17) : paramsOfWords ws = none := by
  cases hp : paramsOfWords ws with
  | none => rfl
  | some p =>
    have := congrArg List.length (words_of_paramsOfWords hp)
    simp only [ParamVec.words_length] at this
    omega

@[simp] theorem pairsOfWords_wordsOfPairs (xs : List Pair) :
    pairsOfWords (wordsOfPairs xs) = some xs := by
  induction xs with
  | nil => rfl
  | cons p t ih => simp [wordsOfPairs, pairsOfWords, ih]

@[simp] theorem wordsOfPairs_length (xs : List Pair) : (wordsOfPairs xs).length = 2 * xs.length := by
  induction xs with
  | nil => rfl
  | cons p t ih => simp [wordsOfPairs, ih]; omega

theorem wordsOfPairs_append (xs ys : List Pair) :
    wordsOfPairs (xs ++ ys) = wordsOfPairs xs ++ wordsOfPairs ys := by
  induction xs with
  | nil => rfl
  | cons p t ih => simp [wordsOfPairs, ih]

theorem wordsOfPairs_of_pairsOfWords : ∀ (ws : List Word) (xs : List Pair),
    pairsOfWords ws = some xs → wordsOfPairs xs = ws ∧ ws.length = 2 * xs.length
  | [], xs, h => by
    simp only [pairsOfWords, Option.some.injEq] at h; subst h; exact ⟨rfl, rfl⟩
  | [_], xs, h => by simp [pairsOfWords] at h
  | l :: r :: t, xs, h => by
    unfold pairsOfWords at h
    split at h
    · rename_i ps hps
      have hi := wordsOfPairs_of_pairsOfWords t ps hps
      cases h
      simp only [wordsOfPairs, hi.1, List.length_cons, hi.2, true_and]; omega
    · cases h

/-- An even number of words are pairs. -/
theorem pairsOfWords_isSome : ∀ (n : Nat) (ws : List Word), ws.length = 2 * n →
    ∃ xs, pairsOfWords ws = some xs
  | 0, ws, h => by
    have : ws = [] := List.length_eq_zero_iff.mp (by omega)
    exact ⟨[], by rw [this]; rfl⟩
  | n + 1, ws, h => by
    match ws, h with
    | l :: r :: t, h =>
      obtain ⟨xs, hxs⟩ := pairsOfWords_isSome n t (by simp only [List.length_cons] at h; omega)
      exact ⟨⟨l, r⟩ :: xs, by simp [pairsOfWords, hxs]⟩

/-! ## The payload of each external operation (rule R136) -/

theorem decodePayload_reset (keep : Bool) (imm : BitVec 16) (ws : List Word) :
    decodePayload 1 keep imm ws = if ws = [] then .ok .reset else .error .badLength := by
  cases ws <;> rfl

theorem decodePayload_cfgBypass (keep : Bool) (imm : BitVec 16) (ws : List Word) :
    decodePayload 2 keep imm ws = if ws = [] then .ok (.cfgBypass keep) else .error .badLength := by
  cases ws <;> rfl

theorem decodePayload_cfgPreset (keep : Bool) (imm : BitVec 16) (ws : List Word) :
    decodePayload 3 keep imm ws = if ws = [] then .ok (.cfgPreset keep imm) else .error .badLength := by
  cases ws <;> rfl

theorem decodePayload_cfgAdvanced (keep : Bool) (imm : BitVec 16) (ws : List Word) :
    decodePayload 4 keep imm ws =
      match paramsOfWords ws with
      | some p => .ok (.cfgAdvanced keep p)
      | none => .error .badLength := by
  cases ws <;> rfl

theorem decodePayload_cfgVector (keep : Bool) (imm : BitVec 16) (l : Word) (v : List Word) :
    decodePayload 5 keep imm (l :: v) =
      if v.length = l.toNat then .ok (.cfgVector keep v) else .error .badLength := rfl

theorem decodePayload_cfgVector_nil (keep : Bool) (imm : BitVec 16) :
    decodePayload 5 keep imm [] = .error .badLength := rfl

theorem decodePayload_processSample (keep : Bool) (imm : BitVec 16) (ws : List Word) :
    decodePayload 6 keep imm ws =
      match ws with
      | [a, b] => .ok (.processSample a b)
      | _ => .error .badLength := by
  match ws with
  | [] => rfl
  | [_] => rfl
  | [_, _] => rfl
  | _ :: _ :: _ :: _ => rfl

theorem decodePayload_processBlock (keep : Bool) (imm : BitVec 16) (n : Word) (ws : List Word) :
    decodePayload 7 keep imm (n :: ws) =
      if ws.length = 2 * n.toNat then
        match pairsOfWords ws with
        | some xs => .ok (.processBlock xs)
        | none => .error .badLength
      else .error .badLength := rfl

theorem decodePayload_processBlock_nil (keep : Bool) (imm : BitVec 16) :
    decodePayload 7 keep imm [] = .error .badLength := rfl

theorem decodePayload_queryValid (keep : Bool) (imm : BitVec 16) (ws : List Word) :
    decodePayload 8 keep imm ws = if ws = [] then .ok .queryValid else .error .badLength := by
  cases ws <;> rfl

/-- A record of format I decodes by its opcode, its `INST` field and its payload (rules R132 and R141). -/
theorem decode_engine_headerI (op : BitVec 8) (id : InstId) (ws : List Word)
    (h : 0x10 ≤ op.toNat ∧ op.toNat ≤ 0x24) :
    decode .engine ⟨headerI op id, ws⟩ = decodeInternal op.toNat id ws := by
  simp only [decode, decodeEngine, Laws.opOf_headerI, instFieldOf_headerI]
  rw [if_neg (by omega)]

/-- A record of format H decodes by its fields, where its reserved fields are right (rule R142). -/
theorem decode_host_headerH (op : BitVec 8) (keep : Bool) (imm : BitVec 16) (ws : List Word)
    (h : 1 ≤ op.toNat ∧ op.toNat ≤ 8)
    (hk : keep = true → ¬(op.toNat = 1 ∨ op.toNat = 6 ∨ op.toNat = 7 ∨ op.toNat = 8))
    (hi : imm ≠ 0 → op.toNat = 3) :
    decode .host ⟨headerH op keep imm, ws⟩ = decodePayload op.toNat keep imm ws := by
  simp only [decode, decodeHost, Laws.opOf_headerH, rsvOf_headerH, preserveOf_headerH, immOf_headerH]
  rw [if_neg (by omega), if_neg (by simp), if_neg (fun hc => hk hc.1 hc.2),
    if_neg (fun hc => hc.2 (hi hc.1))]

/-- No record on the command port spells DERIVE (rule R142). -/
theorem decode_host_ne_derive (r : Record) (p : ParamVec) : decode .host r ≠ .ok (.derive p) := by
  show decodeHost r ≠ _
  unfold decodeHost
  simp only []
  split
  · simp
  split
  · simp
  split
  · simp
  split
  · simp
  generalize opOf r.header = op at *
  have ho : op = 1 ∨ op = 2 ∨ op = 3 ∨ op = 4 ∨ op = 5 ∨ op = 6 ∨ op = 7 ∨ op = 8 := by omega
  rcases ho with rfl | rfl | rfl | rfl | rfl | rfl | rfl | rfl
  · rw [decodePayload_reset]; split <;> simp
  · rw [decodePayload_cfgBypass]; split <;> simp
  · rw [decodePayload_cfgPreset]; split <;> simp
  · rw [decodePayload_cfgAdvanced]; split <;> simp
  · cases r.payload
    · rw [decodePayload_cfgVector_nil]; simp
    · rw [decodePayload_cfgVector]; split <;> simp
  · rw [decodePayload_processSample]; split <;> simp
  · cases r.payload
    · rw [decodePayload_processBlock_nil]; simp
    · rw [decodePayload_processBlock]; split
      · split <;> simp
      · simp
  · rw [decodePayload_queryValid]; split <;> simp

end Sys2Proof
end

