-- ==== Sys2Proof/Laws/Params.lean ====
section
/-! SUPPORT. What is known of the open parameters: exactly the constraints of rules R8 and R9. -/

namespace Sys2Proof.Machine

open Sys2Proof.Config (Params)

/-- The test parameters of 95_test_vectors.md meet the constraints. -/
theorem testParams_ok : paramsOk testParams = true := by decide +kernel

/-- The parameters of this block meet the constraints of rules R8 and R9. -/
theorem params_ok : paramsOk params = true := by
  unfold params
  split
  · assumption
  · exact testParams_ok

theorem capOk_iff {lo n : Nat} : capOk lo n = true ↔ lo ≤ n ∧ n ≤ 2 ^ 24 := by
  simp [capOk]

/-- The least capacity of a line (rule R8). -/
def LineRole.leastCap : LineRole → Nat
  | .dl .erTap => 2
  | .dl .preWet => 0
  | .dl .preDry => 0
  | .dl .erXdelay => 0
  | .dl .crossDelay => 1
  | .dl .dampDelay => 0
  | .dl .cbassD1 => 0
  | .dl .cbassD2 => 0
  | .dl .outDelay => 0
  | .erXap => 1
  | .cbassAp2S0 => 1
  | .cbassAp2S1 => 1
  | .cbassAp3S0 => 1
  | .cbassAp3S2 => 1
  | .comb => 1

theorem capsOk_of_paramsOk {P : Params} (h : paramsOk P = true) : capsOk P = true := by
  simp only [paramsOk, Bool.and_eq_true] at h
  exact h.1.1

theorem topoOk_of_paramsOk {P : Params} (h : paramsOk P = true) : topoOk P = true := by
  simp only [paramsOk, Bool.and_eq_true] at h
  exact h.1.2

theorem presetsOk_of_paramsOk {P : Params} (h : paramsOk P = true) : presetsOk P = true := by
  simp only [paramsOk, Bool.and_eq_true] at h
  exact h.2

/-- Every line's capacity lies between its least value and 2^24 (rule R8). -/
theorem lineCap_bounds {P : Params} (h : paramsOk P = true) (r : LineRole) :
    r.leastCap ≤ lineCap P r ∧ lineCap P r ≤ 2 ^ 24 := by
  have hc := capsOk_of_paramsOk h
  simp only [capsOk, Bool.and_eq_true, capOk_iff] at hc
  rcases r with ⟨_ | _ | _ | _ | _ | _ | _ | _ | _⟩ | _ | _ | _ | _ | _ | _ <;>
    simp only [lineCap, LineRole.leastCap] <;> omega

/-- Every modulated all-pass's capacity lies between 2 and 2^24 (rule R8). -/
theorem apmCap_bounds {P : Params} (h : paramsOk P = true) (r : ApmRole) :
    2 ≤ apmCap P r ∧ apmCap P r ≤ 2 ^ 24 := by
  have hc := capsOk_of_paramsOk h
  simp only [capsOk, Bool.and_eq_true, capOk_iff, List.all_eq_true] at hc
  obtain ⟨⟨⟨⟨⟨⟨⟨⟨⟨⟨⟨⟨⟨⟨⟨⟨⟨_, _⟩, _⟩, _⟩, hd⟩, _⟩, h1⟩, h2⟩, _⟩, _⟩, _⟩, _⟩, _⟩, _⟩, _⟩, h3⟩, _⟩, _⟩ := hc
  cases r with
  | diff i => exact hd _ (Vector.mem_toList_iff.mpr (Vector.getElem_mem i.isLt))
  | dampAp1 => exact h1
  | dampAp2 => exact h2
  | cbassAp3S1 => exact h3

/-- The block has at least one preset, and each is in range (rule R8). -/
theorem presets_bounds {P : Params} (h : paramsOk P = true) :
    1 ≤ P.presets.length ∧ ∀ p ∈ P.presets, inRange p = true := by
  have hp := presetsOk_of_paramsOk h
  simp only [presetsOk, Bool.and_eq_true, decide_eq_true_eq, List.all_eq_true] at hp
  exact ⟨hp.1.1.1.1, hp.1.1.1.2⟩

/-- A preset row that exists is in range (rules R8 and R414). -/
theorem presetRow_inRange {P : Params} (h : paramsOk P = true) {id : Nat} {p}
    (hp : presetRow P id = some p) : inRange p = true :=
  (presets_bounds h).2 p (List.mem_of_getElem? hp)

/-- Preset 0 exists (rule R423, example). -/
theorem presetRow_zero {P : Params} (h : paramsOk P = true) : ∃ p, presetRow P 0 = some p := by
  have := (presets_bounds h).1
  exact ⟨P.presets[0], List.getElem?_eq_getElem (by omega)⟩

/-- The two sentinels are distinct values (rule R8). -/
theorem sentinels_ne {P : Params} (h : paramsOk P = true) :
    eq32 P.sentinelPreset P.sentinelBypass = false := by
  have hp := presetsOk_of_paramsOk h
  simp only [presetsOk, Bool.and_eq_true] at hp
  simpa using hp.1.1.2

end Sys2Proof.Machine
end

