-- ==== Sys2Proof/Laws/Float.lean ====
section
/-! SUPPORT. Comparisons of binary32 values, and what they say of the two sentinels (rules R8 and R11). -/

namespace Sys2Proof.Machine

open Sys2Proof.Config (Params)

/-- A datum that is no NaN equals itself. -/
theorem Num.eq_self {a : Num} (h : a ≠ .nan) : a.eq a = true := by
  cases a with
  | nan => exact absurd rfl h
  | inf s => simp [Num.eq]
  | fin s m e => simp [Num.eq]

/-- A datum below or equal to another is no NaN. -/
theorem Num.ne_nan_of_le {a b : Num} (h : a.le b = true) : a ≠ .nan := by
  rintro rfl
  cases b <;> simp [Num.le, Num.lt, Num.eq] at h

/-- A word that compares with another equals itself. -/
theorem eq32_self_of_le32 {a b : Word} (h : le32 a b = true) : eq32 a a = true :=
  Num.eq_self (Num.ne_nan_of_le h)

/-- A value not above zero has a negative sign or no significand. -/
theorem Num.sign_of_le_zero {s : Bool} {m : Nat} {e g : Int}
    (h : (Num.fin s m e).le (.fin false 0 g) = true) : s = true ∨ m = 0 := by
  cases s with
  | true => exact .inl rfl
  | false =>
    have hp : (0 : Int) < 2 ^ (e - min e g).toNat := by positivity
    simp only [Num.le, Num.lt, Num.eq, scaled, Bool.or_eq_true, beq_iff_eq] at h
    right
    by_contra hm
    have hm' : (0 : Int) < m := by omega
    have := mul_pos hm' hp
    simp at h
    omega

/-- A positive finite value equals none that is not above zero. -/
theorem Num.eq_false_of_le_zero {a : Num} {m : Nat} {e g : Int} (hm : 0 < m)
    (h : a.le (.fin false 0 g) = true) : (Num.fin false m e).eq a = false := by
  cases a with
  | nan => rfl
  | inf s => rfl
  | fin s n k =>
    have hs := Num.sign_of_le_zero h
    have hp : (0 : Int) < 2 ^ (e - min e k).toNat := by positivity
    have hq : (0 : Int) ≤ 2 ^ (k - min e k).toNat := by positivity
    have hl : (0 : Int) < m * 2 ^ (e - min e k).toNat := mul_pos (by omega) hp
    have hr : (0 : Int) ≤ n * 2 ^ (k - min e k).toNat := mul_nonneg (by omega) hq
    simp only [Num.eq, scaled, beq_eq_false_iff_ne, ne_eq]
    push_cast
    rcases hs with rfl | rfl
    · simp only [if_true]
      omega
    · simp only [Nat.cast_zero, zero_mul, neg_zero, ite_self]
      omega

/-- Each sentinel is at most zero, as a binary32 value (rule R8). -/
theorem sentinels_le {P : Params} (h : paramsOk P = true) :
    le32 P.sentinelPreset 0 = true ∧ le32 P.sentinelBypass 0 = true := by
  have hp := presetsOk_of_paramsOk h
  simp only [presetsOk, Bool.and_eq_true] at hp
  exact ⟨hp.1.2, hp.2⟩

/-- A positive finite mode element selects neither sentinel (rules R8 and R144). -/
theorem sentinels_ne_of_pos {P : Params} (h : paramsOk P = true) {x : Word} {m : Nat} {e : Int}
    (hx : val32 x = .fin false m e) (hm : 0 < m) :
    eq32 x P.sentinelPreset = false ∧ eq32 x P.sentinelBypass = false := by
  have hs := sentinels_le h
  simp only [eq32, hx]
  exact ⟨Num.eq_false_of_le_zero hm hs.1, Num.eq_false_of_le_zero hm hs.2⟩

end Sys2Proof.Machine
end

