-- ==== Sys2Proof/Laws/State.lean ====
section
/-! SUPPORT. One lemma for each field and each update of the state, true by unfolding: later proofs cite
these and unfold no record update. -/

namespace Sys2Proof.Machine

/-! ## Answers -/

@[simp] theorem State.mode_accept (s : State) (ws : List Word) : (s.accept ws).mode = s.mode := rfl
@[simp] theorem State.eng_accept (s : State) (ws : List Word) : (s.accept ws).eng = s.eng := rfl
@[simp] theorem State.left_accept (s : State) (ws : List Word) : (s.accept ws).left = s.left := rfl
@[simp] theorem State.right_accept (s : State) (ws : List Word) : (s.accept ws).right = s.right := rfl
@[simp] theorem State.noise_accept (s : State) (ws : List Word) : (s.accept ws).noise = s.noise := rfl
@[simp] theorem State.lfo1_accept (s : State) (ws : List Word) : (s.accept ws).lfo1 = s.lfo1 := rfl
@[simp] theorem State.lfo2_accept (s : State) (ws : List Word) : (s.accept ws).lfo2 = s.lfo2 := rfl
@[simp] theorem State.lfo1Lpf_accept (s : State) (ws : List Word) : (s.accept ws).lfo1Lpf = s.lfo1Lpf := rfl
@[simp] theorem State.lfo2Lpf_accept (s : State) (ws : List Word) : (s.accept ws).lfo2Lpf = s.lfo2Lpf := rfl
@[simp] theorem State.port_accept (s : State) (ws : List Word) : (s.accept ws).port = s.port := rfl
@[simp] theorem State.reply_accept (s : State) (ws : List Word) : (s.accept ws).reply = statusWord .ok :: ws := rfl
@[simp] theorem State.opResult_accept (s : State) (ws : List Word) : (s.accept ws).opResult = s.opResult := rfl
@[simp] theorem State.chan_accept (s : State) (ws : List Word) (c : Ch) :
    (s.accept ws).chan c = s.chan c := by cases c <;> rfl
@[simp] theorem State.lfo_accept (s : State) (ws : List Word) (r : LfoRef) :
    (s.accept ws).lfo r = s.lfo r := by cases r <;> rfl
@[simp] theorem State.iir1_accept (s : State) (ws : List Word) (r : Iir1Ref) :
    (s.accept ws).iir1 r = s.iir1 r := by rcases r with ⟨c, _⟩ | _ | _ <;> rfl

@[simp] theorem State.mode_reject (s : State) (e : Status) : (s.reject e).mode = s.mode := rfl
@[simp] theorem State.eng_reject (s : State) (e : Status) : (s.reject e).eng = s.eng := rfl
@[simp] theorem State.left_reject (s : State) (e : Status) : (s.reject e).left = s.left := rfl
@[simp] theorem State.right_reject (s : State) (e : Status) : (s.reject e).right = s.right := rfl
@[simp] theorem State.noise_reject (s : State) (e : Status) : (s.reject e).noise = s.noise := rfl
@[simp] theorem State.lfo1_reject (s : State) (e : Status) : (s.reject e).lfo1 = s.lfo1 := rfl
@[simp] theorem State.lfo2_reject (s : State) (e : Status) : (s.reject e).lfo2 = s.lfo2 := rfl
@[simp] theorem State.lfo1Lpf_reject (s : State) (e : Status) : (s.reject e).lfo1Lpf = s.lfo1Lpf := rfl
@[simp] theorem State.lfo2Lpf_reject (s : State) (e : Status) : (s.reject e).lfo2Lpf = s.lfo2Lpf := rfl
@[simp] theorem State.port_reject (s : State) (e : Status) : (s.reject e).port = s.port := rfl
@[simp] theorem State.reply_reject (s : State) (e : Status) : (s.reject e).reply = [statusWord e] := rfl
@[simp] theorem State.opResult_reject (s : State) (e : Status) : (s.reject e).opResult = s.opResult := rfl
@[simp] theorem State.chan_reject (s : State) (e : Status) (c : Ch) :
    (s.reject e).chan c = s.chan c := by cases c <;> rfl
@[simp] theorem State.lfo_reject (s : State) (e : Status) (r : LfoRef) :
    (s.reject e).lfo r = s.lfo r := by cases r <;> rfl
@[simp] theorem State.iir1_reject (s : State) (e : Status) (r : Iir1Ref) :
    (s.reject e).iir1 r = s.iir1 r := by rcases r with ⟨c, _⟩ | _ | _ <;> rfl

@[simp] theorem State.mode_yields (s : State) (ws : List Word) : (s.yields ws).mode = s.mode := rfl
@[simp] theorem State.eng_yields (s : State) (ws : List Word) : (s.yields ws).eng = s.eng := rfl
@[simp] theorem State.left_yields (s : State) (ws : List Word) : (s.yields ws).left = s.left := rfl
@[simp] theorem State.right_yields (s : State) (ws : List Word) : (s.yields ws).right = s.right := rfl
@[simp] theorem State.noise_yields (s : State) (ws : List Word) : (s.yields ws).noise = s.noise := rfl
@[simp] theorem State.lfo1_yields (s : State) (ws : List Word) : (s.yields ws).lfo1 = s.lfo1 := rfl
@[simp] theorem State.lfo2_yields (s : State) (ws : List Word) : (s.yields ws).lfo2 = s.lfo2 := rfl
@[simp] theorem State.lfo1Lpf_yields (s : State) (ws : List Word) : (s.yields ws).lfo1Lpf = s.lfo1Lpf := rfl
@[simp] theorem State.lfo2Lpf_yields (s : State) (ws : List Word) : (s.yields ws).lfo2Lpf = s.lfo2Lpf := rfl
@[simp] theorem State.port_yields (s : State) (ws : List Word) : (s.yields ws).port = s.port := rfl
@[simp] theorem State.reply_yields (s : State) (ws : List Word) : (s.yields ws).reply = s.reply := rfl
@[simp] theorem State.opResult_yields (s : State) (ws : List Word) : (s.yields ws).opResult = ws := rfl
@[simp] theorem State.chan_yields (s : State) (ws : List Word) (c : Ch) :
    (s.yields ws).chan c = s.chan c := by cases c <;> rfl
@[simp] theorem State.lfo_yields (s : State) (ws : List Word) (r : LfoRef) :
    (s.yields ws).lfo r = s.lfo r := by cases r <;> rfl
@[simp] theorem State.iir1_yields (s : State) (ws : List Word) (r : Iir1Ref) :
    (s.yields ws).iir1 r = s.iir1 r := by rcases r with ⟨c, _⟩ | _ | _ <;> rfl

/-! ## What an outcome is -/

@[simp] theorem outcomeOf_ok (s : State) : outcomeOf (.ok s) = .next s := rfl
@[simp] theorem outcomeOf_error (e : Fault) : outcomeOf (.error e) = .fault e := rfl

/-- A meaning answers a next state exactly where its computation succeeds. -/
theorem outcomeOf_eq_next {r : Except Fault State} {t : State} :
    outcomeOf r = .next t ↔ r = .ok t := by
  cases r <;> simp [outcomeOf]

/-- A bind of computations succeeds exactly where both parts do. -/
theorem bind_eq_ok {α β : Type} {x : Except Fault α} {f : α → Except Fault β} {b : β} :
    (x >>= f) = .ok b ↔ ∃ a, x = .ok a ∧ f a = .ok b := by
  cases x <;> simp [bind, Except.bind]

/-- A computation that succeeds feeds its value on. -/
theorem bind_ok {α β : Type} (a : α) (f : α → Except Fault β) :
    ((Except.ok a : Except Fault α) >>= f) = f a := rfl

@[simp] theorem named_some {α : Type} (a : α) : named (some a) = .ok a := rfl
@[simp] theorem named_none {α : Type} : named (none : Option α) = .error .wrongInstance := rfl

/-! ## Replacing a channel -/

@[simp] theorem State.mode_setChan (s : State) (c : Ch) (x : Chan) : (s.setChan c x).mode = s.mode := by
  cases c <;> rfl
@[simp] theorem State.eng_setChan (s : State) (c : Ch) (x : Chan) : (s.setChan c x).eng = s.eng := by
  cases c <;> rfl
@[simp] theorem State.noise_setChan (s : State) (c : Ch) (x : Chan) : (s.setChan c x).noise = s.noise := by
  cases c <;> rfl
@[simp] theorem State.lfo1_setChan (s : State) (c : Ch) (x : Chan) : (s.setChan c x).lfo1 = s.lfo1 := by
  cases c <;> rfl
@[simp] theorem State.lfo2_setChan (s : State) (c : Ch) (x : Chan) : (s.setChan c x).lfo2 = s.lfo2 := by
  cases c <;> rfl
@[simp] theorem State.lfo1Lpf_setChan (s : State) (c : Ch) (x : Chan) : (s.setChan c x).lfo1Lpf = s.lfo1Lpf := by
  cases c <;> rfl
@[simp] theorem State.lfo2Lpf_setChan (s : State) (c : Ch) (x : Chan) : (s.setChan c x).lfo2Lpf = s.lfo2Lpf := by
  cases c <;> rfl
@[simp] theorem State.port_setChan (s : State) (c : Ch) (x : Chan) : (s.setChan c x).port = s.port := by
  cases c <;> rfl
@[simp] theorem State.reply_setChan (s : State) (c : Ch) (x : Chan) : (s.setChan c x).reply = s.reply := by
  cases c <;> rfl
@[simp] theorem State.opResult_setChan (s : State) (c : Ch) (x : Chan) : (s.setChan c x).opResult = s.opResult := by
  cases c <;> rfl
@[simp] theorem State.lfo_setChan (s : State) (c : Ch) (x : Chan) (r : LfoRef) :
    (s.setChan c x).lfo r = s.lfo r := by cases c <;> cases r <;> rfl
@[simp] theorem State.chan_setChan_same (s : State) (c : Ch) (x : Chan) : (s.setChan c x).chan c = x := by
  cases c <;> rfl
theorem State.chan_setChan (s : State) (c d : Ch) (x : Chan) :
    (s.setChan c x).chan d = if d = c then x else s.chan d := by
  cases c <;> cases d <;> rfl

/-! ## Replacing a part of a channel -/

theorem Chan.line_setLine (x : Chan) (r q : LineRole) (d0 : Line) :
    (x.setLine r d0).line q = if q = r then d0 else x.line q := by
  rcases r with ⟨_ | _ | _ | _ | _ | _ | _ | _ | _⟩ | _ | _ | _ | _ | _ | _ <;> rcases q with ⟨_ | _ | _ | _ | _ | _ | _ | _ | _⟩ | _ | _ | _ | _ | _ | _ <;> rfl
@[simp] theorem Chan.line_setLine_same (x : Chan) (r : LineRole) (d0 : Line) :
    (x.setLine r d0).line r = d0 := by simp [Chan.line_setLine]
@[simp] theorem Chan.g_setLine (x : Chan) (r : LineRole) (q : Ap1Role) (d0 : Line) :
    ((x.setLine r d0).ap1 q).g = (x.ap1 q).g := by
  rcases r with ⟨_ | _ | _ | _ | _ | _ | _ | _ | _⟩ | _ | _ | _ | _ | _ | _ <;> cases q <;> rfl
@[simp] theorem Chan.decay_setLine (x : Chan) (r : LineRole) (q : Ap1Role) (d0 : Line) :
    ((x.setLine r d0).ap1 q).decay = (x.ap1 q).decay := by
  rcases r with ⟨_ | _ | _ | _ | _ | _ | _ | _ | _⟩ | _ | _ | _ | _ | _ | _ <;> cases q <;> rfl
@[simp] theorem Chan.apm_setLine (x : Chan) (r : LineRole) (q : ApmRole) (d0 : Line) :
    (x.setLine r d0).apm q = x.apm q := by
  rcases r with ⟨_ | _ | _ | _ | _ | _ | _ | _ | _⟩ | _ | _ | _ | _ | _ | _ <;> cases q <;> rfl
@[simp] theorem Chan.iir1_setLine (x : Chan) (r : LineRole) (q : Iir1Role) (d0 : Line) :
    (x.setLine r d0).iir1 q = x.iir1 q := by
  rcases r with ⟨_ | _ | _ | _ | _ | _ | _ | _ | _⟩ | _ | _ | _ | _ | _ | _ <;> cases q <;> rfl
@[simp] theorem Chan.bq_setLine (x : Chan) (r : LineRole) (q : BqRole) (d0 : Line) :
    (x.setLine r d0).bq q = x.bq q := by
  rcases r with ⟨_ | _ | _ | _ | _ | _ | _ | _ | _⟩ | _ | _ | _ | _ | _ | _ <;> cases q <;> rfl
@[simp] theorem Chan.dccut_setLine (x : Chan) (r : LineRole) (d0 : Line) :
    (x.setLine r d0).dccut = x.dccut := by rcases r with ⟨_ | _ | _ | _ | _ | _ | _ | _ | _⟩ | _ | _ | _ | _ | _ | _ <;> rfl
@[simp] theorem Chan.nTaps_setLine (x : Chan) (r : LineRole) (d0 : Line) :
    (x.setLine r d0).nTaps = x.nTaps := by rcases r with ⟨_ | _ | _ | _ | _ | _ | _ | _ | _⟩ | _ | _ | _ | _ | _ | _ <;> rfl
@[simp] theorem Chan.taps_setLine (x : Chan) (r : LineRole) (d0 : Line) :
    (x.setLine r d0).taps = x.taps := by rcases r with ⟨_ | _ | _ | _ | _ | _ | _ | _ | _⟩ | _ | _ | _ | _ | _ | _ <;> rfl
@[simp] theorem Chan.comb_fb_setLine (x : Chan) (r : LineRole) (d0 : Line) :
    (x.setLine r d0).comb.fb = x.comb.fb := by rcases r with ⟨_ | _ | _ | _ | _ | _ | _ | _ | _⟩ | _ | _ | _ | _ | _ | _ <;> rfl

theorem Chan.line_setAp1 (x : Chan) (r : Ap1Role) (q : LineRole) (a0 : Ap1) :
    (x.setAp1 r a0).line q = if q = r.line then a0.line else x.line q := by
  cases r <;> rcases q with ⟨_ | _ | _ | _ | _ | _ | _ | _ | _⟩ | _ | _ | _ | _ | _ | _ <;> rfl
theorem Chan.ap1_setAp1 (x : Chan) (r q : Ap1Role) (a0 : Ap1) :
    (x.setAp1 r a0).ap1 q = if q = r then a0 else x.ap1 q := by
  cases r <;> cases q <;> rfl
@[simp] theorem Chan.ap1_setAp1_same (x : Chan) (r : Ap1Role) (a0 : Ap1) :
    (x.setAp1 r a0).ap1 r = a0 := by simp [Chan.ap1_setAp1]
@[simp] theorem Chan.apm_setAp1 (x : Chan) (r : Ap1Role) (q : ApmRole) (a0 : Ap1) :
    (x.setAp1 r a0).apm q = x.apm q := by
  cases r <;> cases q <;> rfl
@[simp] theorem Chan.iir1_setAp1 (x : Chan) (r : Ap1Role) (q : Iir1Role) (a0 : Ap1) :
    (x.setAp1 r a0).iir1 q = x.iir1 q := by
  cases r <;> cases q <;> rfl
@[simp] theorem Chan.bq_setAp1 (x : Chan) (r : Ap1Role) (q : BqRole) (a0 : Ap1) :
    (x.setAp1 r a0).bq q = x.bq q := by
  cases r <;> cases q <;> rfl
@[simp] theorem Chan.dccut_setAp1 (x : Chan) (r : Ap1Role) (a0 : Ap1) :
    (x.setAp1 r a0).dccut = x.dccut := by cases r <;> rfl
@[simp] theorem Chan.nTaps_setAp1 (x : Chan) (r : Ap1Role) (a0 : Ap1) :
    (x.setAp1 r a0).nTaps = x.nTaps := by cases r <;> rfl
@[simp] theorem Chan.taps_setAp1 (x : Chan) (r : Ap1Role) (a0 : Ap1) :
    (x.setAp1 r a0).taps = x.taps := by cases r <;> rfl
@[simp] theorem Chan.comb_fb_setAp1 (x : Chan) (r : Ap1Role) (a0 : Ap1) :
    (x.setAp1 r a0).comb.fb = x.comb.fb := by cases r <;> rfl

@[simp] theorem Chan.line_setApm (x : Chan) (r : ApmRole) (q : LineRole) (a0 : Apm) :
    (x.setApm r a0).line q = x.line q := by
  cases r <;> rcases q with ⟨_ | _ | _ | _ | _ | _ | _ | _ | _⟩ | _ | _ | _ | _ | _ | _ <;> rfl
@[simp] theorem Chan.ap1_setApm (x : Chan) (r : ApmRole) (q : Ap1Role) (a0 : Apm) :
    (x.setApm r a0).ap1 q = x.ap1 q := by
  cases r <;> cases q <;> rfl
theorem Chan.apm_setApm (x : Chan) (r q : ApmRole) (a0 : Apm) :
    (x.setApm r a0).apm q = if q = r then a0 else x.apm q := by
  cases r <;> cases q <;> simp [Chan.setApm, Chan.apm, Vector.getElem_set]
  simp only [Fin.ext_iff, eq_comm]
@[simp] theorem Chan.apm_setApm_same (x : Chan) (r : ApmRole) (a0 : Apm) :
    (x.setApm r a0).apm r = a0 := by simp [Chan.apm_setApm]
@[simp] theorem Chan.iir1_setApm (x : Chan) (r : ApmRole) (q : Iir1Role) (a0 : Apm) :
    (x.setApm r a0).iir1 q = x.iir1 q := by
  cases r <;> cases q <;> rfl
@[simp] theorem Chan.bq_setApm (x : Chan) (r : ApmRole) (q : BqRole) (a0 : Apm) :
    (x.setApm r a0).bq q = x.bq q := by
  cases r <;> cases q <;> rfl
@[simp] theorem Chan.dccut_setApm (x : Chan) (r : ApmRole) (a0 : Apm) :
    (x.setApm r a0).dccut = x.dccut := by cases r <;> rfl
@[simp] theorem Chan.nTaps_setApm (x : Chan) (r : ApmRole) (a0 : Apm) :
    (x.setApm r a0).nTaps = x.nTaps := by cases r <;> rfl
@[simp] theorem Chan.taps_setApm (x : Chan) (r : ApmRole) (a0 : Apm) :
    (x.setApm r a0).taps = x.taps := by cases r <;> rfl
@[simp] theorem Chan.comb_fb_setApm (x : Chan) (r : ApmRole) (a0 : Apm) :
    (x.setApm r a0).comb.fb = x.comb.fb := by cases r <;> rfl

@[simp] theorem Chan.line_setIir1 (x : Chan) (r : Iir1Role) (q : LineRole) (f0 : Iir1) :
    (x.setIir1 r f0).line q = x.line q := by
  cases r <;> rcases q with ⟨_ | _ | _ | _ | _ | _ | _ | _ | _⟩ | _ | _ | _ | _ | _ | _ <;> rfl
@[simp] theorem Chan.ap1_setIir1 (x : Chan) (r : Iir1Role) (q : Ap1Role) (f0 : Iir1) :
    (x.setIir1 r f0).ap1 q = x.ap1 q := by
  cases r <;> cases q <;> rfl
@[simp] theorem Chan.apm_setIir1 (x : Chan) (r : Iir1Role) (q : ApmRole) (f0 : Iir1) :
    (x.setIir1 r f0).apm q = x.apm q := by
  cases r <;> cases q <;> rfl
theorem Chan.iir1_setIir1 (x : Chan) (r q : Iir1Role) (f0 : Iir1) :
    (x.setIir1 r f0).iir1 q = if q = r then f0 else x.iir1 q := by
  cases r <;> cases q <;> rfl
@[simp] theorem Chan.iir1_setIir1_same (x : Chan) (r : Iir1Role) (f0 : Iir1) :
    (x.setIir1 r f0).iir1 r = f0 := by simp [Chan.iir1_setIir1]
@[simp] theorem Chan.bq_setIir1 (x : Chan) (r : Iir1Role) (q : BqRole) (f0 : Iir1) :
    (x.setIir1 r f0).bq q = x.bq q := by
  cases r <;> cases q <;> rfl
@[simp] theorem Chan.dccut_setIir1 (x : Chan) (r : Iir1Role) (f0 : Iir1) :
    (x.setIir1 r f0).dccut = x.dccut := by cases r <;> rfl
@[simp] theorem Chan.nTaps_setIir1 (x : Chan) (r : Iir1Role) (f0 : Iir1) :
    (x.setIir1 r f0).nTaps = x.nTaps := by cases r <;> rfl
@[simp] theorem Chan.taps_setIir1 (x : Chan) (r : Iir1Role) (f0 : Iir1) :
    (x.setIir1 r f0).taps = x.taps := by cases r <;> rfl
@[simp] theorem Chan.comb_fb_setIir1 (x : Chan) (r : Iir1Role) (f0 : Iir1) :
    (x.setIir1 r f0).comb.fb = x.comb.fb := by cases r <;> rfl

@[simp] theorem Chan.line_setBq (x : Chan) (r : BqRole) (q : LineRole) (q0 : Bq) :
    (x.setBq r q0).line q = x.line q := by
  cases r <;> rcases q with ⟨_ | _ | _ | _ | _ | _ | _ | _ | _⟩ | _ | _ | _ | _ | _ | _ <;> rfl
@[simp] theorem Chan.ap1_setBq (x : Chan) (r : BqRole) (q : Ap1Role) (q0 : Bq) :
    (x.setBq r q0).ap1 q = x.ap1 q := by
  cases r <;> cases q <;> rfl
@[simp] theorem Chan.apm_setBq (x : Chan) (r : BqRole) (q : ApmRole) (q0 : Bq) :
    (x.setBq r q0).apm q = x.apm q := by
  cases r <;> cases q <;> rfl
@[simp] theorem Chan.iir1_setBq (x : Chan) (r : BqRole) (q : Iir1Role) (q0 : Bq) :
    (x.setBq r q0).iir1 q = x.iir1 q := by
  cases r <;> cases q <;> rfl
theorem Chan.bq_setBq (x : Chan) (r q : BqRole) (q0 : Bq) :
    (x.setBq r q0).bq q = if q = r then q0 else x.bq q := by
  cases r <;> cases q <;> rfl
@[simp] theorem Chan.bq_setBq_same (x : Chan) (r : BqRole) (q0 : Bq) :
    (x.setBq r q0).bq r = q0 := by simp [Chan.bq_setBq]
@[simp] theorem Chan.dccut_setBq (x : Chan) (r : BqRole) (q0 : Bq) :
    (x.setBq r q0).dccut = x.dccut := by cases r <;> rfl
@[simp] theorem Chan.nTaps_setBq (x : Chan) (r : BqRole) (q0 : Bq) :
    (x.setBq r q0).nTaps = x.nTaps := by cases r <;> rfl
@[simp] theorem Chan.taps_setBq (x : Chan) (r : BqRole) (q0 : Bq) :
    (x.setBq r q0).taps = x.taps := by cases r <;> rfl
@[simp] theorem Chan.comb_fb_setBq (x : Chan) (r : BqRole) (q0 : Bq) :
    (x.setBq r q0).comb.fb = x.comb.fb := by cases r <;> rfl

/-- The line of a plain all-pass is one of the channel's lines. -/
theorem Chan.ap1_line (x : Chan) (r : Ap1Role) : (x.ap1 r).line = x.line r.line := by cases r <;> rfl

/-! ## The same parts of the state -/

@[simp] theorem State.mode_setLine (s : State) (c : Ch) (r : LineRole) (d0 : Line) :
    (s.setLine c r d0).mode = s.mode := by simp [State.setLine]
@[simp] theorem State.eng_setLine (s : State) (c : Ch) (r : LineRole) (d0 : Line) :
    (s.setLine c r d0).eng = s.eng := by simp [State.setLine]
@[simp] theorem State.noise_setLine (s : State) (c : Ch) (r : LineRole) (d0 : Line) :
    (s.setLine c r d0).noise = s.noise := by simp [State.setLine]
@[simp] theorem State.lfo1_setLine (s : State) (c : Ch) (r : LineRole) (d0 : Line) :
    (s.setLine c r d0).lfo1 = s.lfo1 := by simp [State.setLine]
@[simp] theorem State.lfo2_setLine (s : State) (c : Ch) (r : LineRole) (d0 : Line) :
    (s.setLine c r d0).lfo2 = s.lfo2 := by simp [State.setLine]
@[simp] theorem State.lfo1Lpf_setLine (s : State) (c : Ch) (r : LineRole) (d0 : Line) :
    (s.setLine c r d0).lfo1Lpf = s.lfo1Lpf := by simp [State.setLine]
@[simp] theorem State.lfo2Lpf_setLine (s : State) (c : Ch) (r : LineRole) (d0 : Line) :
    (s.setLine c r d0).lfo2Lpf = s.lfo2Lpf := by simp [State.setLine]
@[simp] theorem State.port_setLine (s : State) (c : Ch) (r : LineRole) (d0 : Line) :
    (s.setLine c r d0).port = s.port := by simp [State.setLine]
@[simp] theorem State.reply_setLine (s : State) (c : Ch) (r : LineRole) (d0 : Line) :
    (s.setLine c r d0).reply = s.reply := by simp [State.setLine]
@[simp] theorem State.opResult_setLine (s : State) (c : Ch) (r : LineRole) (d0 : Line) :
    (s.setLine c r d0).opResult = s.opResult := by simp [State.setLine]
@[simp] theorem State.lfo_setLine (s : State) (c : Ch) (r : LineRole) (d0 : Line) (q : LfoRef) :
    (s.setLine c r d0).lfo q = s.lfo q := by simp [State.setLine]
theorem State.chan_setLine (s : State) (c e : Ch) (r : LineRole) (d0 : Line) :
    (s.setLine c r d0).chan e = if e = c then (s.chan c).setLine r d0 else s.chan e := by
  simp [State.setLine, State.chan_setChan]

@[simp] theorem State.mode_setAp1 (s : State) (c : Ch) (r : Ap1Role) (a0 : Ap1) :
    (s.setAp1 c r a0).mode = s.mode := by simp [State.setAp1]
@[simp] theorem State.eng_setAp1 (s : State) (c : Ch) (r : Ap1Role) (a0 : Ap1) :
    (s.setAp1 c r a0).eng = s.eng := by simp [State.setAp1]
@[simp] theorem State.noise_setAp1 (s : State) (c : Ch) (r : Ap1Role) (a0 : Ap1) :
    (s.setAp1 c r a0).noise = s.noise := by simp [State.setAp1]
@[simp] theorem State.lfo1_setAp1 (s : State) (c : Ch) (r : Ap1Role) (a0 : Ap1) :
    (s.setAp1 c r a0).lfo1 = s.lfo1 := by simp [State.setAp1]
@[simp] theorem State.lfo2_setAp1 (s : State) (c : Ch) (r : Ap1Role) (a0 : Ap1) :
    (s.setAp1 c r a0).lfo2 = s.lfo2 := by simp [State.setAp1]
@[simp] theorem State.lfo1Lpf_setAp1 (s : State) (c : Ch) (r : Ap1Role) (a0 : Ap1) :
    (s.setAp1 c r a0).lfo1Lpf = s.lfo1Lpf := by simp [State.setAp1]
@[simp] theorem State.lfo2Lpf_setAp1 (s : State) (c : Ch) (r : Ap1Role) (a0 : Ap1) :
    (s.setAp1 c r a0).lfo2Lpf = s.lfo2Lpf := by simp [State.setAp1]
@[simp] theorem State.port_setAp1 (s : State) (c : Ch) (r : Ap1Role) (a0 : Ap1) :
    (s.setAp1 c r a0).port = s.port := by simp [State.setAp1]
@[simp] theorem State.reply_setAp1 (s : State) (c : Ch) (r : Ap1Role) (a0 : Ap1) :
    (s.setAp1 c r a0).reply = s.reply := by simp [State.setAp1]
@[simp] theorem State.opResult_setAp1 (s : State) (c : Ch) (r : Ap1Role) (a0 : Ap1) :
    (s.setAp1 c r a0).opResult = s.opResult := by simp [State.setAp1]
@[simp] theorem State.lfo_setAp1 (s : State) (c : Ch) (r : Ap1Role) (a0 : Ap1) (q : LfoRef) :
    (s.setAp1 c r a0).lfo q = s.lfo q := by simp [State.setAp1]
theorem State.chan_setAp1 (s : State) (c e : Ch) (r : Ap1Role) (a0 : Ap1) :
    (s.setAp1 c r a0).chan e = if e = c then (s.chan c).setAp1 r a0 else s.chan e := by
  simp [State.setAp1, State.chan_setChan]

@[simp] theorem State.mode_setApm (s : State) (c : Ch) (r : ApmRole) (a0 : Apm) :
    (s.setApm c r a0).mode = s.mode := by simp [State.setApm]
@[simp] theorem State.eng_setApm (s : State) (c : Ch) (r : ApmRole) (a0 : Apm) :
    (s.setApm c r a0).eng = s.eng := by simp [State.setApm]
@[simp] theorem State.noise_setApm (s : State) (c : Ch) (r : ApmRole) (a0 : Apm) :
    (s.setApm c r a0).noise = s.noise := by simp [State.setApm]
@[simp] theorem State.lfo1_setApm (s : State) (c : Ch) (r : ApmRole) (a0 : Apm) :
    (s.setApm c r a0).lfo1 = s.lfo1 := by simp [State.setApm]
@[simp] theorem State.lfo2_setApm (s : State) (c : Ch) (r : ApmRole) (a0 : Apm) :
    (s.setApm c r a0).lfo2 = s.lfo2 := by simp [State.setApm]
@[simp] theorem State.lfo1Lpf_setApm (s : State) (c : Ch) (r : ApmRole) (a0 : Apm) :
    (s.setApm c r a0).lfo1Lpf = s.lfo1Lpf := by simp [State.setApm]
@[simp] theorem State.lfo2Lpf_setApm (s : State) (c : Ch) (r : ApmRole) (a0 : Apm) :
    (s.setApm c r a0).lfo2Lpf = s.lfo2Lpf := by simp [State.setApm]
@[simp] theorem State.port_setApm (s : State) (c : Ch) (r : ApmRole) (a0 : Apm) :
    (s.setApm c r a0).port = s.port := by simp [State.setApm]
@[simp] theorem State.reply_setApm (s : State) (c : Ch) (r : ApmRole) (a0 : Apm) :
    (s.setApm c r a0).reply = s.reply := by simp [State.setApm]
@[simp] theorem State.opResult_setApm (s : State) (c : Ch) (r : ApmRole) (a0 : Apm) :
    (s.setApm c r a0).opResult = s.opResult := by simp [State.setApm]
@[simp] theorem State.lfo_setApm (s : State) (c : Ch) (r : ApmRole) (a0 : Apm) (q : LfoRef) :
    (s.setApm c r a0).lfo q = s.lfo q := by simp [State.setApm]
theorem State.chan_setApm (s : State) (c e : Ch) (r : ApmRole) (a0 : Apm) :
    (s.setApm c r a0).chan e = if e = c then (s.chan c).setApm r a0 else s.chan e := by
  simp [State.setApm, State.chan_setChan]

@[simp] theorem State.mode_setBq (s : State) (c : Ch) (r : BqRole) (q0 : Bq) :
    (s.setBq c r q0).mode = s.mode := by simp [State.setBq]
@[simp] theorem State.eng_setBq (s : State) (c : Ch) (r : BqRole) (q0 : Bq) :
    (s.setBq c r q0).eng = s.eng := by simp [State.setBq]
@[simp] theorem State.noise_setBq (s : State) (c : Ch) (r : BqRole) (q0 : Bq) :
    (s.setBq c r q0).noise = s.noise := by simp [State.setBq]
@[simp] theorem State.lfo1_setBq (s : State) (c : Ch) (r : BqRole) (q0 : Bq) :
    (s.setBq c r q0).lfo1 = s.lfo1 := by simp [State.setBq]
@[simp] theorem State.lfo2_setBq (s : State) (c : Ch) (r : BqRole) (q0 : Bq) :
    (s.setBq c r q0).lfo2 = s.lfo2 := by simp [State.setBq]
@[simp] theorem State.lfo1Lpf_setBq (s : State) (c : Ch) (r : BqRole) (q0 : Bq) :
    (s.setBq c r q0).lfo1Lpf = s.lfo1Lpf := by simp [State.setBq]
@[simp] theorem State.lfo2Lpf_setBq (s : State) (c : Ch) (r : BqRole) (q0 : Bq) :
    (s.setBq c r q0).lfo2Lpf = s.lfo2Lpf := by simp [State.setBq]
@[simp] theorem State.port_setBq (s : State) (c : Ch) (r : BqRole) (q0 : Bq) :
    (s.setBq c r q0).port = s.port := by simp [State.setBq]
@[simp] theorem State.reply_setBq (s : State) (c : Ch) (r : BqRole) (q0 : Bq) :
    (s.setBq c r q0).reply = s.reply := by simp [State.setBq]
@[simp] theorem State.opResult_setBq (s : State) (c : Ch) (r : BqRole) (q0 : Bq) :
    (s.setBq c r q0).opResult = s.opResult := by simp [State.setBq]
@[simp] theorem State.lfo_setBq (s : State) (c : Ch) (r : BqRole) (q0 : Bq) (q : LfoRef) :
    (s.setBq c r q0).lfo q = s.lfo q := by simp [State.setBq]
theorem State.chan_setBq (s : State) (c e : Ch) (r : BqRole) (q0 : Bq) :
    (s.setBq c r q0).chan e = if e = c then (s.chan c).setBq r q0 else s.chan e := by
  simp [State.setBq, State.chan_setChan]

@[simp] theorem State.mode_setIir1 (s : State) (r : Iir1Ref) (f0 : Iir1) :
    (s.setIir1 r f0).mode = s.mode := by cases r <;> simp [State.setIir1]
@[simp] theorem State.eng_setIir1 (s : State) (r : Iir1Ref) (f0 : Iir1) :
    (s.setIir1 r f0).eng = s.eng := by cases r <;> simp [State.setIir1]
@[simp] theorem State.noise_setIir1 (s : State) (r : Iir1Ref) (f0 : Iir1) :
    (s.setIir1 r f0).noise = s.noise := by cases r <;> simp [State.setIir1]
@[simp] theorem State.lfo1_setIir1 (s : State) (r : Iir1Ref) (f0 : Iir1) :
    (s.setIir1 r f0).lfo1 = s.lfo1 := by cases r <;> simp [State.setIir1]
@[simp] theorem State.lfo2_setIir1 (s : State) (r : Iir1Ref) (f0 : Iir1) :
    (s.setIir1 r f0).lfo2 = s.lfo2 := by cases r <;> simp [State.setIir1]
@[simp] theorem State.port_setIir1 (s : State) (r : Iir1Ref) (f0 : Iir1) :
    (s.setIir1 r f0).port = s.port := by cases r <;> simp [State.setIir1]
@[simp] theorem State.reply_setIir1 (s : State) (r : Iir1Ref) (f0 : Iir1) :
    (s.setIir1 r f0).reply = s.reply := by cases r <;> simp [State.setIir1]
@[simp] theorem State.opResult_setIir1 (s : State) (r : Iir1Ref) (f0 : Iir1) :
    (s.setIir1 r f0).opResult = s.opResult := by cases r <;> simp [State.setIir1]
@[simp] theorem State.lfo_setIir1 (s : State) (r : Iir1Ref) (f0 : Iir1) (q : LfoRef) :
    (s.setIir1 r f0).lfo q = s.lfo q := by cases r <;> cases q <;> simp [State.setIir1, State.lfo]
theorem State.iir1_setIir1 (s : State) (r q : Iir1Ref) (f0 : Iir1) :
    (s.setIir1 r f0).iir1 q = if q = r then f0 else s.iir1 q := by
  rcases r with ⟨c, r⟩ | _ | _ <;> rcases q with ⟨d, q⟩ | _ | _ <;>
    simp [State.setIir1, State.iir1, State.chan_setChan]
  · by_cases h : d = c <;> simp [h, Chan.iir1_setIir1]
  all_goals cases d <;> rfl

@[simp] theorem State.mode_setLfo (s : State) (r : LfoRef) (l0 : Lfo) :
    (s.setLfo r l0).mode = s.mode := by cases r <;> rfl
@[simp] theorem State.eng_setLfo (s : State) (r : LfoRef) (l0 : Lfo) :
    (s.setLfo r l0).eng = s.eng := by cases r <;> rfl
@[simp] theorem State.left_setLfo (s : State) (r : LfoRef) (l0 : Lfo) :
    (s.setLfo r l0).left = s.left := by cases r <;> rfl
@[simp] theorem State.right_setLfo (s : State) (r : LfoRef) (l0 : Lfo) :
    (s.setLfo r l0).right = s.right := by cases r <;> rfl
@[simp] theorem State.noise_setLfo (s : State) (r : LfoRef) (l0 : Lfo) :
    (s.setLfo r l0).noise = s.noise := by cases r <;> rfl
@[simp] theorem State.lfo1Lpf_setLfo (s : State) (r : LfoRef) (l0 : Lfo) :
    (s.setLfo r l0).lfo1Lpf = s.lfo1Lpf := by cases r <;> rfl
@[simp] theorem State.lfo2Lpf_setLfo (s : State) (r : LfoRef) (l0 : Lfo) :
    (s.setLfo r l0).lfo2Lpf = s.lfo2Lpf := by cases r <;> rfl
@[simp] theorem State.port_setLfo (s : State) (r : LfoRef) (l0 : Lfo) :
    (s.setLfo r l0).port = s.port := by cases r <;> rfl
@[simp] theorem State.reply_setLfo (s : State) (r : LfoRef) (l0 : Lfo) :
    (s.setLfo r l0).reply = s.reply := by cases r <;> rfl
@[simp] theorem State.opResult_setLfo (s : State) (r : LfoRef) (l0 : Lfo) :
    (s.setLfo r l0).opResult = s.opResult := by cases r <;> rfl
@[simp] theorem State.chan_setLfo (s : State) (r : LfoRef) (l0 : Lfo) (c : Ch) :
    (s.setLfo r l0).chan c = s.chan c := by cases r <;> cases c <;> rfl
theorem State.lfo_setLfo (s : State) (r q : LfoRef) (l0 : Lfo) :
    (s.setLfo r l0).lfo q = if q = r then l0 else s.lfo q := by cases r <;> cases q <;> rfl

end Sys2Proof.Machine
end

