-- ==== Sys2Proof/Laws/Ops.lean ====
section
/-! SUPPORT. For each shared operation, what it can do, said once: on a part of the state that is in order it
succeeds, does what its rule says, and leaves the part in order; and whenever it succeeds it leaves the
configuration registers alone. -/

namespace Sys2Proof.Machine

open Sys2Proof.Config (Params)

/-! ## Positions -/

theorem lineIndex_lt (d : Line) (k : Nat) (h : d.size ≠ 0) : lineIndex d k < d.size := by
  unfold lineIndex
  have h1 := Int.emod_lt_of_pos ((d.cursor : Int) - k) (b := d.size) (by omega)
  have h2 := Int.emod_nonneg ((d.cursor : Int) - k) (b := d.size) (by omega)
  omega

/-- A read at offset 0 is at the cursor (rule R200). -/
theorem lineIndex_zero (d : Line) (h : d.cursor < d.size) : lineIndex d 0 = d.cursor := by
  unfold lineIndex
  rw [Int.emod_eq_of_lt] <;> omega

/-- A read `k` steps behind the cursor, where it does not wrap (rule R200). -/
theorem lineIndex_le (d : Line) (k : Nat) (hk : k ≤ d.cursor) (h : d.cursor < d.size) :
    lineIndex d k = d.cursor - k := by
  unfold lineIndex
  rw [Int.emod_eq_of_lt] <;> omega

/-- A read `k` steps behind the cursor, where it wraps (rule R200). -/
theorem lineIndex_gt (d : Line) (k : Nat) (hk : d.cursor < k) (h : k ≤ d.size) :
    lineIndex d k = d.cursor + d.size - k := by
  unfold lineIndex
  rw [← Int.add_emod_right, Int.emod_eq_of_lt] <;> omega

theorem reduce_lt (n : Nat) {len : Nat} (h : len ≠ 0) : reduce n len < len := by
  unfold reduce
  rw [if_neg h]
  exact Nat.mod_lt _ (by omega)

theorem reduce_eq (n len : Nat) : reduce n len = modLength n len := rfl

/-! ## Delay lines -/

theorem bufRead_ok {cap i : Nat} (m : Memory) (h : i < cap) :
    bufRead cap m i = .ok (Memory.read m i) := by simp [bufRead, h]

theorem bufWrite_ok {cap i : Nat} (m : Memory) (v : Word) (h : i < cap) :
    bufWrite cap m i v = .ok (Memory.write m i v) := by simp [bufWrite, h]

/-- DL_READ at a legal offset of a line within its capacity. -/
theorem lineRead_ok {cap : Nat} {d : Line} {k : Nat} (hc : d.size ≤ cap) (hk : k < d.size) :
    lineRead cap d k = .ok (Memory.read d.buf (lineIndex d k)) := by
  have h := lineIndex_lt d k (by omega)
  unfold lineRead
  rw [if_neg (by omega), if_neg (by omega), if_pos hk, bufRead_ok _ (by omega)]

/-- DL_READ succeeds only at a legal offset (rule R202). -/
theorem lineRead_eq_ok {cap : Nat} {d : Line} {k : Nat} {y : Word} (h : lineRead cap d k = .ok y) :
    d.size ≤ cap ∧ k < d.size ∧ y = Memory.read d.buf (lineIndex d k) := by
  by_cases h0 : d.size = 0
  · simp [lineRead, h0] at h
  · by_cases hc : d.size ≤ cap
    · by_cases hk : k < d.size
      · rw [lineRead_ok hc hk] at h
        exact ⟨hc, hk, by simpa using h.symm⟩
      · simp [lineRead, h0, hk, Nat.not_lt.mpr hc] at h
    · simp [lineRead, h0, Nat.lt_of_not_le hc] at h

/-- DL_READ at offset 0 of a line in order is the oldest word. -/
theorem lineRead_zero {cap : Nat} {d : Line} (h : d.Ok cap) (hs : d.size ≠ 0) :
    lineRead cap d 0 = .ok d.oldest := by
  have hl : d.cursor < d.size := h.cursor_lt.resolve_right (fun hc => hs hc.2)
  rw [lineRead_ok h.size_le (by omega), lineIndex_zero d hl]
  rfl

/-- DL_WRITE of a line in order. -/
theorem lineWrite_ok {cap : Nat} {d : Line} (h : d.Ok cap) (x : Word) :
    ∃ d', lineWrite cap d x = .ok d' ∧ d.Writes d' x ∧ d'.Ok cap := by
  unfold lineWrite
  by_cases hs : d.size = 0
  · exact ⟨d, by rw [if_pos hs], ⟨fun _ => rfl, fun hn => absurd hs hn⟩, h⟩
  · have hl : d.cursor < d.size := h.cursor_lt.resolve_right (fun hc => hs hc.2)
    have hc := h.size_le
    rw [if_neg hs, if_neg (by omega), bufWrite_ok _ _ (by omega)]
    refine ⟨_, rfl, ⟨fun h0 => absurd h0 hs, fun _ => ⟨rfl, rfl, ?_⟩⟩, ?_⟩
    · exact Memory.stores_write _ _ h.buf_wf
    · refine ⟨hc, .inl (Nat.mod_lt _ (by omega)), Memory.wf_write _ _ h.buf_wf, ?_⟩
      intro e he
      rcases Memory.mem_write he with he | he
      · exact h.buf_lt e he
      · rw [he]; simp only; omega

/-- DL_WRITE leaves the length alone. -/
theorem lineWrite_size {cap : Nat} {d d' : Line} {x : Word} (h : lineWrite cap d x = .ok d') :
    d'.size = d.size := by
  unfold lineWrite at h
  split at h
  · cases h; rfl
  · split at h
    · cases h
    · obtain ⟨b, _, hb⟩ := bind_eq_ok.mp h
      cases hb; rfl

/-- DL_PROCESS of a line in order. -/
theorem lineProcess_ok {cap : Nat} {d : Line} (h : d.Ok cap) (x : Word) :
    ∃ y d', lineProcess cap d x = .ok (y, d') ∧ d.Delays d' x y ∧ d'.Ok cap := by
  unfold lineProcess
  by_cases hs : d.size = 0
  · exact ⟨x, d, by rw [if_pos hs], ⟨⟨fun _ => rfl, fun hn => absurd hs hn⟩, by rw [if_pos hs]⟩, h⟩
  · obtain ⟨d', hw, hd, hd'⟩ := lineWrite_ok h x
    refine ⟨d.oldest, d', ?_, ⟨hd, by rw [if_neg hs]⟩, hd'⟩
    rw [if_neg hs, lineRead_zero h hs, bind_ok, hw, bind_ok]

/-- DL_PROCESS leaves the length alone. -/
theorem lineProcess_size {cap : Nat} {d d' : Line} {x y : Word}
    (h : lineProcess cap d x = .ok (y, d')) : d'.size = d.size := by
  unfold lineProcess at h
  split at h
  · cases h; rfl
  · obtain ⟨_, _, h⟩ := bind_eq_ok.mp h
    obtain ⟨_, hw, h⟩ := bind_eq_ok.mp h
    cases h
    exact lineWrite_size hw

/-! ## All-passes and the comb -/

/-- AP1_PROCESS of a section whose line is in order and not empty. -/
theorem ap1Process_ok {cap : Nat} {a : Ap1} (h : a.line.Ok cap) (hs : a.line.size ≠ 0) (x : Word) :
    ∃ y a', ap1Process cap a x = .ok (y, a') ∧ a.Steps a' x y ∧ a'.line.Ok cap := by
  obtain ⟨d', hw, hd, hd'⟩ := lineWrite_ok h (apSection a.line.oldest x a.g a.decay).v
  refine ⟨_, { a with line := d' }, ?_, ⟨rfl, hd, rfl, rfl⟩, hd'⟩
  unfold ap1Process
  rw [lineRead_zero h hs, bind_ok]
  simp only
  rw [hw, bind_ok]
  rfl

/-- AP1_PROCESS leaves the length, the feedback and the decay alone. -/
theorem ap1Process_config {cap : Nat} {a a' : Ap1} {x y : Word}
    (h : ap1Process cap a x = .ok (y, a')) :
    a'.line.size = a.line.size ∧ a'.g = a.g ∧ a'.decay = a.decay := by
  obtain ⟨_, _, h⟩ := bind_eq_ok.mp h
  obtain ⟨_, hw, h⟩ := bind_eq_ok.mp h
  cases h
  exact ⟨lineWrite_size hw, rfl, rfl⟩

/-- APM_PROCESS of a section in order whose window is not empty. -/
theorem apmProcess_ok {cap : Nat} {a : Apm} (h : a.Ok cap) (hs : a.size ≠ 0) (x m : Word) :
    ∃ y a', apmProcess cap a x m = .ok (y, a') ∧ a.Steps a' x m y ∧ a'.Ok cap := by
  obtain ⟨h1, h2, h3, h4, h5⟩ := h.window.resolve_left (fun hc => hs hc.1)
  have hr : (a.wpos + a.msize - modOffset m a.msize) % (a.size + a.msize) < a.size + a.msize :=
    Nat.mod_lt _ (by omega)
  have hw : (a.wpos + 1) % (a.size + a.msize) < a.size + a.msize := Nat.mod_lt _ (by omega)
  unfold apmProcess
  rw [if_neg (by omega), if_neg (by omega)]
  simp only
  rw [bufRead_ok _ (by omega), bind_ok, bufWrite_ok _ _ (by omega), bind_ok]
  refine ⟨_, _, rfl, ⟨rfl, ?_, rfl, rfl, rfl, rfl, rfl, rfl⟩, ?_⟩
  · exact Memory.stores_write _ _ h.buf_wf
  · refine ⟨.inr ⟨h1, h2, h3, hw, hr⟩, Memory.wf_write _ _ h.buf_wf, ?_⟩
    intro e he
    rcases Memory.mem_write he with he | he
    · exact h.buf_lt e he
    · rw [he]; simp only; omega

/-- APM_PROCESS leaves the configuration registers alone, and runs only on a window within the capacity. -/
theorem apmProcess_config {cap : Nat} {a a' : Apm} {x m y : Word}
    (h : apmProcess cap a x m = .ok (y, a')) :
    a'.size = a.size ∧ a'.msize = a.msize ∧ a'.g = a.g ∧ a'.decay = a.decay := by
  unfold apmProcess at h
  split at h
  · cases h
  · split at h
    · cases h
    · obtain ⟨_, _, h⟩ := bind_eq_ok.mp h
      obtain ⟨_, _, h⟩ := bind_eq_ok.mp h
      cases h
      exact ⟨rfl, rfl, rfl, rfl⟩

/-- AP2_PROCESS of two sections whose lines are in order and not empty. -/
theorem ap2Process_ok {P : Params} {a : Ap2}
    (h0 : a.s0.line.Ok (lineCap P .cbassAp2S0)) (h1 : a.s1.line.Ok (lineCap P .cbassAp2S1))
    (hs0 : a.s0.line.size ≠ 0) (hs1 : a.s1.line.size ≠ 0) (x : Word) :
    ∃ y a', ap2Process P a x = .ok (y, a') ∧ a.Steps a' x y ∧
      a'.s0.line.Ok (lineCap P .cbassAp2S0) ∧ a'.s1.line.Ok (lineCap P .cbassAp2S1) := by
  obtain ⟨t, b0, e0, r0, k0⟩ := ap1Process_ok h0 hs0 x
  obtain ⟨y, b1, e1, r1, k1⟩ := ap1Process_ok h1 hs1 t
  refine ⟨y, ⟨b0, b1⟩, ?_, ⟨t, r0, r1⟩, k0, k1⟩
  unfold ap2Process
  rw [e0, bind_ok, e1, bind_ok]

/-- AP3M_PROCESS of sections in order and not empty. -/
theorem ap3mProcess_ok {P : Params} {a : Ap3m}
    (h0 : a.s0.line.Ok (lineCap P .cbassAp3S0)) (h1 : a.s1.Ok (apmCap P .cbassAp3S1))
    (h2 : a.s2.line.Ok (lineCap P .cbassAp3S2))
    (hs0 : a.s0.line.size ≠ 0) (hs1 : a.s1.size ≠ 0) (hs2 : a.s2.line.size ≠ 0) (x m : Word) :
    ∃ y a', ap3mProcess P a x m = .ok (y, a') ∧ a.Steps a' x m y ∧
      a'.s0.line.Ok (lineCap P .cbassAp3S0) ∧ a'.s1.Ok (apmCap P .cbassAp3S1) ∧
      a'.s2.line.Ok (lineCap P .cbassAp3S2) := by
  obtain ⟨t0, b0, e0, r0, k0⟩ := ap1Process_ok h0 hs0 x
  obtain ⟨t1, b1, e1, r1, k1⟩ := apmProcess_ok h1 hs1 t0 m
  obtain ⟨y, b2, e2, r2, k2⟩ := ap1Process_ok h2 hs2 t1
  refine ⟨y, ⟨b0, b1, b2⟩, ?_, ⟨t0, t1, r0, r1, r2⟩, k0, k1, k2⟩
  unfold ap3mProcess
  rw [e0, bind_ok, e1, bind_ok, e2, bind_ok]

/-- COMB_PROCESS of a comb whose line is in order and not empty. -/
theorem combProcess_ok {cap : Nat} {k : Comb} (h : k.line.Ok cap) (hs : k.line.size ≠ 0) (x : Word) :
    ∃ y k', combProcess cap k x = .ok (y, k') ∧ k.Steps k' x y ∧ k'.line.Ok cap := by
  obtain ⟨d', hw, hd, hd'⟩ := lineWrite_ok h (add32 x (mul32 k.fb k.line.oldest))
  refine ⟨_, { k with line := d' }, ?_, ⟨rfl, hd, rfl⟩, hd'⟩
  unfold combProcess
  rw [lineRead_zero h hs, bind_ok, hw, bind_ok]

/-- COMB_PROCESS leaves the length and the feedback alone. -/
theorem combProcess_config {cap : Nat} {k k' : Comb} {x y : Word}
    (h : combProcess cap k x = .ok (y, k')) :
    k'.line.size = k.line.size ∧ k'.fb = k.fb := by
  obtain ⟨_, _, h⟩ := bind_eq_ok.mp h
  obtain ⟨_, hw, h⟩ := bind_eq_ok.mp h
  cases h
  exact ⟨lineWrite_size hw, rfl⟩

/-! ## Filters, noise, oscillators -/

theorem iir1Process_steps (f : Iir1) (x : Word) :
    f.Steps (iir1Process f x).2 x (iir1Process f x).1 := ⟨rfl, rfl⟩

theorem bqProcess_steps (q : Bq) (x : Word) : q.Steps (bqProcess q x).2 x (bqProcess q x).1 :=
  ⟨rfl, rfl⟩

theorem dccProcess_steps (d : Dcc) (x : Word) : d.Steps (dccProcess d x).2 x (dccProcess d x).1 :=
  ⟨rfl, rfl⟩

theorem lfoStep_steps (l : Lfo) : l.Steps (lfoStep l).2 (lfoStep l).1 := by
  unfold lfoStep Lfo.Steps
  by_cases h : l.count + 1 = lfoRenorm
  · have h' : l.count + 1 = 1024 := h
    rw [if_pos h]
    exact ⟨rfl, rfl, rfl, fun _ => ⟨rfl, rfl, rfl⟩, fun hn => absurd h' hn⟩
  · have h' : l.count + 1 ≠ 1024 := h
    rw [if_neg h]
    exact ⟨rfl, rfl, rfl, fun hn => absurd hn h', fun _ => ⟨rfl, rfl, rfl⟩⟩

/-- LFO_STEP keeps the counter below `LFO_RENORM`. -/
theorem lfoStep_count (l : Lfo) (h : l.count < lfoRenorm) : (lfoStep l).2.count < lfoRenorm := by
  unfold lfoStep
  split
  · exact Nat.two_pow_pos 10
  · show l.count + 1 < lfoRenorm
    omega

/-- The noise table has `NOISE_LEN` entries (rule R39). -/
theorem noiseTable_length : noiseTable.length = noiseLen := by
  have hd : ∀ n s, (draws n s).1.length = n := by
    intro n
    induction n with
    | zero => intro s; rfl
    | succ n ih => intro s; simp [draws, ih]
  have hv : ∀ (xs : List Word) (k : Nat) (f : Word → Word),
      (xs.flatMap (fun x => List.replicate k (f x))).length = xs.length * k := by
    intro xs k f
    induction xs with
    | nil => simp
    | cons x xs ih => simp [ih]; ring
  have ho : ∀ o tab s, o < 8 → tab.length = noiseLen → (addOctave o tab s).1.length = noiseLen := by
    intro o tab s ho ht
    unfold addOctave
    simp only [List.length_zipWith, hv, hd, ht]
    have : noiseLen / 2 ^ o * 2 ^ o = noiseLen := by
      have : o = 0 ∨ o = 1 ∨ o = 2 ∨ o = 3 ∨ o = 4 ∨ o = 5 ∨ o = 6 ∨ o = 7 := by omega
      rcases this with rfl | rfl | rfl | rfl | rfl | rfl | rfl | rfl <;> rfl
    rw [this, Nat.min_self]
  have ha : ∀ n o tab s, o + n ≤ 8 → tab.length = noiseLen →
      (addOctaves n o tab s).length = noiseLen := by
    intro n
    induction n with
    | zero => intro o tab s _ ht; exact ht
    | succ n ih =>
      intro o tab s hn ht
      exact ih (o + 1) _ _ (by omega) (ho o tab s (by omega) ht)
  exact ha 8 0 _ _ (by omega) (by simp)

/-- NOISE_NEXT of the generated table. -/
theorem noiseNext_ok {n : Noise} (ht : n.tab = noiseTable) (hp : n.npos < noiseLen) :
    noiseNext n = .ok (n.entry 0, { n with npos := (n.npos + 1) % noiseLen }) := by
  have hl : n.npos < n.tab.length := by rw [ht, noiseTable_length]; exact hp
  unfold noiseNext Noise.entry
  rw [List.getElem?_eq_getElem hl]
  simp [Nat.mod_eq_of_lt hp, List.getD_eq_getElem?_getD, List.getElem?_eq_getElem hl]

/-! ## The two channels -/

/-- A stage on both channels succeeds where it does on each. -/
theorem bothChans_ok {f : Ch → Chan → Word → Except Fault (Word × Chan)} {s : State} {x : Pair}
    {yl yr : Word} {l r : Chan} (hl : f .left s.left x.l = .ok (yl, l))
    (hr : f .right s.right x.r = .ok (yr, r)) :
    bothChans f s x = .ok (⟨yl, yr⟩, { s with left := l, right := r }) := by
  unfold bothChans
  rw [hl, bind_ok, hr, bind_ok]

/-- What a stage on both channels has done when it succeeds. -/
theorem bothChans_eq_ok {f : Ch → Chan → Word → Except Fault (Word × Chan)} {s t : State}
    {x y : Pair} (h : bothChans f s x = .ok (y, t)) :
    f .left s.left x.l = .ok (y.l, t.left) ∧ f .right s.right x.r = .ok (y.r, t.right) ∧
      t = { s with left := t.left, right := t.right } := by
  obtain ⟨⟨yl, l⟩, hl, h⟩ := bind_eq_ok.mp h
  obtain ⟨⟨yr, r⟩, hr, h⟩ := bind_eq_ok.mp h
  cases h
  exact ⟨hl, hr, rfl⟩

/-! ## Where the shared operations stop (rules R15 and R455) -/

/-- A read at offset 0 stops where the line's precondition is false. -/
theorem lineRead_stop {cap : Nat} {d : Line} {e : Fault} (h : d.stop cap = some e) :
    lineRead cap d 0 = .error e := by
  unfold Line.stop at h
  unfold lineRead
  split at h
  · simp_all
  · split at h
    · simp_all
    · cases h

/-- A plain section stops where its line's precondition is false. -/
theorem ap1Process_stop {cap : Nat} {a : Ap1} {e : Fault} (h : a.line.stop cap = some e) (x : Word) :
    ap1Process cap a x = .error e := by
  simp [ap1Process, lineRead_stop h, bind, Except.bind]

/-- A comb stops where its line's precondition is false. -/
theorem combProcess_stop {cap : Nat} {k : Comb} {e : Fault} (h : k.line.stop cap = some e) (x : Word) :
    combProcess cap k x = .error e := by
  simp [combProcess, lineRead_stop h, bind, Except.bind]

/-- A modulated section stops where its window's precondition is false. -/
theorem apmProcess_stop {cap : Nat} {a : Apm} {e : Fault} (h : a.stop cap = some e) (x m : Word) :
    apmProcess cap a x m = .error e := by
  unfold Apm.stop at h
  unfold apmProcess
  split at h
  · simp_all
  · split at h
    · simp_all
    · cases h

/-! ## The deriver's clamps (rule R405) -/

/-- TOS answers between its bounds. -/
theorem tos_bounds (t fs : DWord) {lo hi : Nat} (h : lo ≤ hi) :
    lo ≤ tos t fs lo hi ∧ tos t fs lo hi ≤ hi := by
  unfold tos
  simp only
  split
  · omega
  · split
    · omega
    · split <;> omega

/-- The factor lies between 1 and 4 (rule R336). -/
theorem factorOf_bounds (w : Word) : 1 ≤ factorOf w ∧ factorOf w ≤ osMax := by
  unfold factorOf osMax
  split
  · omega
  · split <;> omega
  · omega

/-- SET_APM leaves a window within the capacity (rule R407). -/
theorem setApmRegs_window (P : Params) (p : ParamVec) (fsi ts tm : DWord) (g : Word)
    {cap : Nat} (h : 2 ≤ cap) (a : Apm) :
    1 ≤ (setApmRegs P p fsi ts tm g cap a).size ∧ 1 ≤ (setApmRegs P p fsi ts tm g cap a).msize ∧
      (setApmRegs P p fsi ts tm g cap a).size + (setApmRegs P p fsi ts tm g cap a).msize ≤ cap := by
  have h1 := tos_bounds ts fsi (lo := 1) (hi := cap - 1) (by omega)
  have h2 := tos_bounds (mul64 (widen p.wander) tm) fsi (lo := 1)
    (hi := cap - tos ts fsi 1 (cap - 1)) (by omega)
  simp only [setApmRegs]
  omega

end Sys2Proof.Machine
end

