-- ==== Sys2Proof/Machine/Assembly.lean ====
section
/-! DEFINITION. The assembler's form of the external commands (rule R145) and the pseudo-instructions
(rule R146). Both are ways of writing commands; no step uses them. -/

namespace Sys2Proof.Machine

/-- The hexadecimal digits of a number, `n` of them, capitals. -/
def hexDigits : Nat → Nat → List Char
  | 0, _ => []
  | n + 1, v => hexDigits n (v / 16) ++ [(Nat.digitChar (v % 16)).toUpper]

/-- A word as the bit pattern that rule R145 writes with `#0x`. -/
def patternText (w : Word) : String := "#0x" ++ String.ofList (hexDigits 8 w.toNat)

/-- The operands of a command, with commas between them. -/
def operandsText (ws : List Word) : String := String.intercalate ", " (ws.map patternText)

/-- The suffix of `PRESERVE = 1`. -/
def keepText (keep : Bool) : String := if keep then ", keep" else ""

/-- An external command in the assembler's form (rule R145), every value written as a bit pattern. The
internal operations are notation for rules there, not commands, and have none. -/
def assembly : Instr → Option String
  | .reset => some "RESET"
  | .cfgBypass keep => some ("CFG_BYPASS" ++ keepText keep)
  | .cfgPreset keep id => some ("CFG_PRESET " ++ toString id.toNat ++ keepText keep)
  | .cfgAdvanced keep p => some ("CFG_ADVANCED " ++ operandsText p.words ++ keepText keep)
  | .cfgVector keep v =>
    some ("CFG_VECTOR " ++ toString v.length ++ ": " ++ operandsText v ++ keepText keep)
  | .processSample a b => some ("PROCESS_SAMPLE " ++ operandsText [a, b])
  | .processBlock xs =>
    some ("PROCESS_BLOCK " ++ toString xs.length ++ ": " ++ operandsText (wordsOfPairs xs))
  | .queryValid => some "QUERY_VALID"
  | .dlWrite _ _ => none
  | .dlRead _ _ => none
  | .dlProcess _ _ => none
  | .iir1Process _ _ => none
  | .bqProcess _ _ => none
  | .ap1Process _ _ => none
  | .ap2Process _ _ => none
  | .ap3mProcess _ _ _ => none
  | .apmProcess _ _ _ => none
  | .combProcess _ _ => none
  | .noiseNext _ => none
  | .noiseGenerate _ => none
  | .lfoStep _ => none
  | .dccutProcess _ _ => none
  | .osUp _ _ _ => none
  | .osDown _ _ => none
  | .erStep _ _ => none
  | .lateStep _ _ => none
  | .lateOsStep _ _ => none
  | .engineSample _ _ => none
  | .derive _ => none

/-- The pseudo-instructions (rule R146); `impulse n` stands for `IMPULSE` of `n + 1` pairs, since the rule
asks for at least one. -/
inductive Pseudo where
  | cfgOff
  | silence (n : Nat)
  | impulse (n : Nat)
  | cfgPresetKeep (id : BitVec 16)
  deriving DecidableEq, Repr

/-- The command a pseudo-instruction stands for (rule R146). -/
def expand : Pseudo → Instr
  | .cfgOff => .cfgBypass false
  | .silence n => .processBlock (List.replicate n ⟨0, 0⟩)
  | .impulse n => .processBlock (⟨one32, one32⟩ :: List.replicate n ⟨0, 0⟩)
  | .cfgPresetKeep id => .cfgPreset true id

end Sys2Proof.Machine
end

