-- ==== Sys2Proof/Tests/Slice0.lean ====
section
/-! SUPPORT. The model's own tests: ill-formed terms refused; every constructor's decoding from a word written
out from rules R131, R132, R136, R140 and R141; vectors of 95_test_vectors.md; and, for every statement with
hypotheses, a concrete state and operands that meet them. -/

namespace Sys2Proof.Tests

-- Theorems one after another: their kernel evaluations in parallel take a thread and its stack each.
set_option Elab.async false

open Sys2Proof.Machine
open Sys2Proof.Config (Params)

/-! ## Ill-formed terms -/

theorem test_wf_dl_write_refuses_a_biquad : (Instr.dlWrite (.inst 0x20) 0).wellFormed = false := by decide
theorem test_wf_dl_read_refuses_no_instance : (Instr.dlRead (.inst 0x6E) 0).wellFormed = false := by decide
theorem test_wf_dl_process_refuses_a_section_of_a_comb :
    (Instr.dlProcess (.secLine 0x68 0) 0).wellFormed = false := by decide
theorem test_wf_iir1_refuses_a_line : (Instr.iir1Process 0x10 0).wellFormed = false := by decide
theorem test_wf_bq_refuses_the_dc_cut : (Instr.bqProcess 0x22 0).wellFormed = false := by decide
theorem test_wf_ap1_refuses_a_modulated_section :
    (Instr.ap1Process (.sec 0x66 1) 0).wellFormed = false := by decide
theorem test_wf_ap2_refuses_an_ap3m : (Instr.ap2Process 0x66 0).wellFormed = false := by decide
theorem test_wf_ap3m_refuses_an_ap2 : (Instr.ap3mProcess 0x62 0 0).wellFormed = false := by decide
theorem test_wf_apm_refuses_a_plain_section :
    (Instr.apmProcess (.sec 0x66 0) 0 0).wellFormed = false := by decide
theorem test_wf_comb_refuses_a_line : (Instr.combProcess 0x6C 0).wellFormed = false := by decide
theorem test_wf_noise_next_refuses_an_lfo : (Instr.noiseNext 0x02).wellFormed = false := by decide
theorem test_wf_noise_generate_refuses_the_engine :
    (Instr.noiseGenerate 0x00).wellFormed = false := by decide
theorem test_wf_lfo_refuses_its_smoother : (Instr.lfoStep 0x04).wellFormed = false := by decide
theorem test_wf_dccut_refuses_a_biquad : (Instr.dccutProcess 0x20 0).wellFormed = false := by decide
theorem test_wf_os_up_refuses_a_comb : (Instr.osUp 0x68 0 0).wellFormed = false := by decide
theorem test_wf_os_down_refuses_a_comb : (Instr.osDown 0x68 0).wellFormed = false := by decide
theorem test_wf_vector_refuses_an_uncountable_length (keep : Bool) (v : List Word)
    (h : v.length = 2 ^ 32) : (Instr.cfgVector keep v).wellFormed = false := by
  simp [Instr.wellFormed, h]
theorem test_wf_block_refuses_an_uncountable_length (xs : List Pair)
    (h : xs.length = 2 ^ 32) : (Instr.processBlock xs).wellFormed = false := by
  simp [Instr.wellFormed, h]

/-! ## Decoding, one written-out record for each constructor

Headers in format H (rule R131) are `IMM16 RSV PRESERVE OP`, in format I (rule R132) `IMM16 INST OP`. -/

theorem test_decode_reset : decode .host ⟨0x00000001, []⟩ = .ok .reset := by decide
theorem test_decode_cfg_bypass : decode .host ⟨0x00000102, []⟩ = .ok (.cfgBypass true) := by decide
theorem test_decode_cfg_preset : decode .host ⟨0xABCD0103, []⟩ = .ok (.cfgPreset true 0xABCD) := by
  decide
theorem test_decode_cfg_advanced :
    decode .host ⟨0x00000004, [0, 1, 2, 3, 4, 5, 6, 7, 8, 9, 10, 11, 12, 13, 14, 15, 16]⟩ =
      .ok (.cfgAdvanced false ⟨0, 1, 2, 3, 4, 5, 6, 7, 8, 9, 10, 11, 12, 13, 14, 15, 16⟩) := by decide
theorem test_decode_cfg_vector : decode .host ⟨0x00000105, [2, 7, 8]⟩ = .ok (.cfgVector true [7, 8]) := by
  decide
theorem test_decode_process_sample :
    decode .host ⟨0x00000006, [0x3F800000, 0xBF000000]⟩ =
      .ok (.processSample 0x3F800000 0xBF000000) := by decide
theorem test_decode_process_block :
    decode .host ⟨0x00000007, [2, 1, 2, 3, 4]⟩ = .ok (.processBlock [⟨1, 2⟩, ⟨3, 4⟩]) := by decide
theorem test_decode_query_valid : decode .host ⟨0x00000008, []⟩ = .ok .queryValid := by decide
theorem test_decode_dl_write :
    decode .engine ⟨0x00006D10, [9]⟩ = .ok (.dlWrite (.inst 0x6D) 9) := by decide
theorem test_decode_dl_read : decode .engine ⟨0x00001811, [9]⟩ = .ok (.dlRead (.inst 0x18) 9) := by
  decide
theorem test_decode_dl_process :
    decode .engine ⟨0x00001012, [9]⟩ = .ok (.dlProcess (.inst 0x10) 9) := by decide
theorem test_decode_iir1 : decode .engine ⟨0x00001513, [9]⟩ = .ok (.iir1Process 0x15 9) := by decide
theorem test_decode_bq : decode .engine ⟨0x00005414, [9]⟩ = .ok (.bqProcess 0x54 9) := by decide
theorem test_decode_ap1 : decode .engine ⟨0x00001D15, [9]⟩ = .ok (.ap1Process (.inst 0x1D) 9) := by
  decide
theorem test_decode_ap2 : decode .engine ⟨0x00006216, [9]⟩ = .ok (.ap2Process 0x62 9) := by decide
theorem test_decode_ap3m : decode .engine ⟨0x00006717, [8, 9]⟩ = .ok (.ap3mProcess 0x67 8 9) := by
  decide
theorem test_decode_apm :
    decode .engine ⟨0x00004918, [8, 9]⟩ = .ok (.apmProcess (.inst 0x49) 8 9) := by decide
theorem test_decode_comb : decode .engine ⟨0x00006819, [9]⟩ = .ok (.combProcess 0x68 9) := by decide
theorem test_decode_noise_next : decode .engine ⟨0x0000011A, []⟩ = .ok (.noiseNext 1) := by decide
theorem test_decode_noise_generate : decode .engine ⟨0x0000011B, []⟩ = .ok (.noiseGenerate 1) := by
  decide
theorem test_decode_lfo : decode .engine ⟨0x0000031C, []⟩ = .ok (.lfoStep 3) := by decide
theorem test_decode_dccut : decode .engine ⟨0x0000231D, [9]⟩ = .ok (.dccutProcess 0x23 9) := by decide
theorem test_decode_os_up : decode .engine ⟨0x00001E1E, [8, 1]⟩ = .ok (.osUp 0x1E 8 1) := by decide
theorem test_decode_os_down : decode .engine ⟨0x0000211F, [9]⟩ = .ok (.osDown 0x21 9) := by decide
theorem test_decode_er_step : decode .engine ⟨0x00000020, [8, 9]⟩ = .ok (.erStep 8 9) := by decide
theorem test_decode_late_step : decode .engine ⟨0x00000021, [8, 9]⟩ = .ok (.lateStep 8 9) := by decide
theorem test_decode_late_os_step : decode .engine ⟨0x00000022, [8, 9]⟩ = .ok (.lateOsStep 8 9) := by
  decide
theorem test_decode_engine_sample : decode .engine ⟨0x00000023, [8, 9]⟩ = .ok (.engineSample 8 9) := by
  decide
theorem test_decode_derive :
    decode .engine ⟨0x00000024, [0, 1, 2, 3, 4, 5, 6, 7, 8, 9, 10, 11, 12, 13, 14, 15, 16]⟩ =
      .ok (.derive ⟨0, 1, 2, 3, 4, 5, 6, 7, 8, 9, 10, 11, 12, 13, 14, 15, 16⟩) := by decide

/-- The bytes of rule R103's order: byte 0 of the word is its bits 7:0. -/
theorem test_decode_bytes :
    decodeBytes .host [0x06, 0, 0, 0, 0, 0, 0x80, 0x3F, 0, 0, 0, 0xBF] =
      .ok (.processSample 0x3F800000 0xBF000000) := by decide
theorem test_decode_table_word : decodeTableWord 32 0x00000002 = some (.cfgBypass false) := by decide

/-- The assembler's form of two of rule R147's examples, values as bit patterns. -/
theorem test_assembly :
    assembly (.cfgPreset true 3) = some "CFG_PRESET 3, keep" ∧
    assembly (.processSample 0x3F800000 0xBF000000) = some "PROCESS_SAMPLE #0x3F800000, #0xBF000000" := by
  decide +kernel
/-- Rule R146's expansions: `SILENCE 1` and `IMPULSE 2` as records. -/
theorem test_pseudo_instructions :
    encode (expand (.silence 1)) = ⟨0x00000007, [1, 0, 0]⟩ ∧
    encode (expand (.impulse 1)) = ⟨0x00000007, [2, 0x3F800000, 0x3F800000, 0, 0]⟩ ∧
    encode (expand .cfgOff) = ⟨0x00000002, []⟩ ∧
    encode (expand (.cfgPresetKeep 3)) = ⟨0x00030103, []⟩ := by decide

/-! ## Rejections (vectors V100 to V123) -/

theorem test_v100_opcode_0 : decode .host ⟨0x00000000, []⟩ = .error .illegalOp := by decide
theorem test_v102_dl_write_on_the_port : decode .host ⟨0x00000010, [0]⟩ = .error .illegalOp := by decide
theorem test_v105_rsv : decode .host ⟨0x00000201, []⟩ = .error .reserved := by decide
theorem test_v106_preserve : decode .host ⟨0x00000101, []⟩ = .error .reserved := by decide
theorem test_v107_imm16 : decode .host ⟨0x00010002, []⟩ = .error .reserved := by decide
theorem test_v108_reserved_before_length :
    decode .host ⟨0x00000202, [0, 0, 0]⟩ = .error .reserved := by decide
theorem test_v110_length : decode .host ⟨0x00000006, [0, 0, 0]⟩ = .error .badLength := by decide
theorem test_v111_block_length : decode .host ⟨0x00000007, [2, 0, 0, 0]⟩ = .error .badLength := by decide
theorem test_v112_empty_block : decode .host ⟨0x00000007, [0]⟩ = .ok (.processBlock []) := by decide
theorem test_v113_empty_vector : validate testParams 0x00000005 [0] = .badLength := by decide
theorem test_v115_short_preset_vector :
    validate testParams 0x00000005 [1, testParams.sentinelPreset] = .badLength := by decide +kernel
theorem test_v118_bad_preset : validate testParams 0x00040003 [] = .badPreset := by decide
theorem test_v120_bad_preset_index :
    validate testParams 0x00000005 [2, testParams.sentinelPreset, 0x40800000] = .badPreset := by
  decide +kernel
theorem test_v121_preset_index_truncates :
    presetOfIndex testParams 0xBF000000 = some testVec := by decide +kernel
theorem test_v123_length_before_preset : validate testParams 0x00050003 [0] = .badLength := by decide

/-! ## Operations (vectors V1 to V99) -/

/-- The outputs of an operation stepped on inputs in order, cut at a fault. -/
def outputs {α : Type} (f : α → Word → Except Fault (Word × α)) : α → List Word → List Word
  | _, [] => []
  | a, x :: xs =>
    match f a x with
    | .ok y => y.1 :: outputs f y.2 xs
    | .error _ => []

/-- A line of a given length, cleared. -/
def emptyLine (n : Nat) : Line := ⟨[], n, 0⟩

theorem test_v1_dl_write :
    (match lineWrite 4 ⟨[], 3, 2⟩ 0x3F000000 with
      | .ok d => d == ⟨[(2, 0x3F000000)], 3, 0⟩
      | .error _ => false) = true := by decide
theorem test_v2_dl_read :
    (lineRead 4 ⟨[(0, 1), (1, 2), (2, 3)], 3, 1⟩ 0).toOption = some 2 ∧
    (lineRead 4 ⟨[(0, 1), (1, 2), (2, 3)], 3, 1⟩ 1).toOption = some 1 ∧
    (lineRead 4 ⟨[(0, 1), (1, 2), (2, 3)], 3, 1⟩ 2).toOption = some 3 := by decide
theorem test_v3_dl_process :
    outputs (lineProcess 4) (emptyLine 2) [0x3F800000, 0x40000000, 0x40400000] = [0, 0, 0x3F800000] := by
  decide
theorem test_v5_dl_process_of_a_wire :
    outputs (lineProcess 4) (emptyLine 0) [0x3F800000, 0x80000000, 0x7FC00001] =
      [0x3F800000, 0x80000000, 0x7FC00001] := by decide
theorem test_v10_iir1 :
    outputs (fun f x => .ok (iir1Process f x)) ⟨0x3F000000, 0, 0x3F000000, 0, 0⟩ [0x3F800000, 0x3F800000] =
      [0x3F000000, 0x3F400000] := by decide +kernel
theorem test_v12_iir1_subnormals :
    outputs (fun f x => .ok (iir1Process f x)) ⟨0x3F800000, 0, 0x3F000000, 0, 0⟩ [0x00000002, 0, 0] =
      [0x00000002, 0x00000001, 0] := by decide +kernel
theorem test_v20_bq :
    outputs (fun q x => .ok (bqProcess q x)) ⟨0x3F800000, 0, 0, 0xBF000000, 0, 0, 0, 0, 0⟩
      [0x3F800000, 0, 0] = [0x3F800000, 0x3F000000, 0x3E800000] := by decide +kernel
theorem test_v21_bq_previous_inputs :
    outputs (fun q x => .ok (bqProcess q x)) ⟨0, 0, 0x3F800000, 0, 0, 0, 0, 0, 0⟩
      [0x3F800000, 0x40000000, 0x40400000, 0x40800000] = [0, 0, 0x3F800000, 0x40000000] := by
  decide +kernel
theorem test_v30_ap1 :
    outputs (ap1Process 4) ⟨emptyLine 1, 0x3F000000, 0x3F800000⟩ [0x3F800000, 0, 0] =
      [0xBF000000, 0x3F400000, 0x3EC00000] := by decide +kernel
theorem test_v31_ap1_decay :
    outputs (ap1Process 4) ⟨emptyLine 2, 0x3F333333, 0x3F666666⟩ [0x3F800000, 0, 0, 0, 0] =
      [0xBF333333, 0, 0x3EEB020C, 0, 0x3E940E17] := by decide +kernel
theorem test_v33_mod_offset :
    [0xBF800000, 0xBF000000, 0x80000000, 0, 0x3F000000, 0x3F7FBE77, 0x3F800000, 0x40000000, 0xC0000000,
      0x7F800000, 0xFF800000].map (fun m => modOffset m 4) =
      [0, 1, 2, 2, 3, 3, 3, 3, 0, 3, 0] := by decide +kernel
theorem test_v35_apm :
    outputs (fun a x => apmProcess 8 a x 0) ⟨[], 2, 2, 0x3F000000, 0x3F800000, 0, 0⟩
      [0x3F800000, 0, 0, 0, 0] = [0xBF000000, 0, 0, 0x3F400000, 0] := by decide +kernel
theorem test_v36_apm_window_jumps :
    outputs (fun a x => apmProcess 8 a x (if x = 0x3F800000 ∨ x = 0x40400000 then 0xBF800000 else 0x3F800000))
      ⟨[], 2, 2, 0, 0x3F800000, 0, 0⟩ [0x3F800000, 0x40000000, 0x40400000, 0x40800000] =
      [0, 0, 0x3F800000, 0x3F800000] := by decide +kernel
theorem test_v37_ap2 :
    outputs (ap2Process testParams)
      ⟨⟨emptyLine 1, 0x3F000000, 0x3F800000⟩, ⟨emptyLine 1, 0x3F000000, 0x3F800000⟩⟩
      [0x3F800000, 0, 0, 0] = [0x3E800000, 0xBF400000, 0x3E400000, 0x3EC00000] := by decide +kernel
theorem test_v38_ap3m :
    outputs (fun a x => ap3mProcess testParams a x 0xBF800000)
      ⟨⟨emptyLine 1, 0, 0x3F800000⟩, ⟨[], 1, 2, 0, 0x3F800000, 0, 0⟩, ⟨emptyLine 1, 0, 0x3F800000⟩⟩
      [0x3F800000, 0, 0, 0, 0] = [0, 0, 0, 0x3F800000, 0] := by decide +kernel
theorem test_v40_comb :
    outputs (combProcess 4) ⟨emptyLine 2, 0x3F000000⟩ [0x3F800000, 0, 0, 0, 0] =
      [0, 0, 0x3F800000, 0, 0x3F000000] := by decide +kernel
theorem test_v50_xorshift32 :
    xorshift32 0x12345678 = 0x87985AA5 ∧ xorshift32 0x87985AA5 = 0x155B24A3 := by decide
theorem test_v51_uniform : uniform 0x87985AA5 = 0xBF70CF4B ∧ uniform 0x155B24A3 = 0x3E2AD925 := by
  decide +kernel
theorem test_v52_octave_weights :
    (List.range 8).map octaveWeight =
      [0x3B808081, 0x3C008081, 0x3C808081, 0x3D008081, 0x3D808081, 0x3E008081, 0x3E808081, 0x3F008081] := by
  decide +kernel
theorem test_v57_lfo :
    outputs (fun l _ => .ok (lfoStep l)) { Lfo.reset with c := 0, s := 0x3F800000 } [0, 0, 0, 0] =
      [0x3F800000, 0, 0xBF800000, 0x80000000] := by decide +kernel
/-- Vectors V60 and V61: the step that renormalises. -/
theorem test_v61_lfo_renormalises :
    lfoStep ⟨0x3F800000, 0x3909421E, 0x3F7DB5D4, 0x3E08B749, 1023⟩ =
      (0x3E08D900, ⟨0x3F800000, 0x3909421E, 0x3F7DB424, 0x3E08D900, 0⟩) := by decide +kernel
theorem test_v70_dccut :
    outputs (fun d x => .ok (dccProcess d x)) ⟨0x3F000000, 0, 0⟩ [0x3F800000, 0x3F800000, 0x3F800000] =
      [0x3F800000, 0x3F000000, 0x3E800000] := by decide +kernel
theorem test_v73_os_up :
    outputs (fun q j => osUpStep 2 q 0x3F000000 j.toNat) ⟨0x3F800000, 0, 0, 0, 0, 0, 0, 0, 0⟩ [0, 1] =
      [0x3F800000, 0] := by decide +kernel
theorem test_v74_os_down :
    outputs (osDownStep 2) ⟨0x3F800000, 0, 0, 0, 0, 0, 0, 0, 0⟩ [0x40490FDB] = [0x40490FDB] := by
  decide +kernel
theorem test_v75_factor :
    [0, 0x3F7D70A4, 0x3F800000, 0x402CCCCD, 0x407FEF9E, 0x40800000, 0x40A00000, 0xC0400000, 0x7FC00000,
      0x7F800000, 0xFF800000].map factorOf = [1, 1, 1, 2, 3, 4, 4, 1, 1, 4, 1] := by decide +kernel
theorem test_v91_tos : tos (widen 0x3C23D70A) 0x40E7700000000000 0 4096 = 479 := by decide +kernel
theorem test_v92_tos :
    tos 0xBFF0000000000000 0x40E7700000000000 1 10 = 1 ∧
    tos 0x7FF0000000000000 0x40E7700000000000 1 10 = 10 ∧
    tos 0x3FF0000000000000 0x40E7700000000000 1 10 = 10 ∧
    tos 0 0x40E7700000000000 1 10 = 1 ∧ tos 0 0x40E7700000000000 0 10 = 0 := by decide +kernel
theorem test_v97_image_weights :
    (deriveEngine testParams { testVec with erefwidth := 0xBF800000 }).ew1 = 0 ∧
    (deriveEngine testParams { testVec with erefwidth := 0xBF800000 }).ew2 = 0x3F800000 := by
  decide +kernel
theorem test_v98_negative_delay :
    preWetSize { testParams with capPre := 4096 } { testVec with delay := 0xBD800000 } = 0 ∧
    preDrySize { testParams with capPre := 4096 } { testVec with delay := 0xBD800000 } = 3000 := by
  decide +kernel

/-- The lengths that P4 derives (95_test_vectors.md section 12), left channel. -/
theorem test_p4_lengths :
    let x := deriveChan testParams testVec (mul64 (widen testVec.rate) (nat64 1)) testTopoLeft Chan.reset
    x.preWet.size = 0 ∧ x.nTaps.val = 2 ∧ x.taps[0].off = 2 ∧ x.taps[1].off = 5 ∧ x.erXdelay.size = 0 ∧
      x.erXap.line.size = 1 ∧ x.diff[9].size = 1 ∧ x.diff[9].msize = 2 ∧ x.dampAp1.size = 2 ∧
      x.cbassAp3.s2.line.size = 2 ∧ x.comb.line.size = 5 := by decide +kernel
/-- The same under P6, `F = 2`: the right comb is clamped to its capacity. -/
theorem test_p6_lengths :
    let x := deriveChan testParams testVec (mul64 (widen testVec.rate) (nat64 2)) testTopoRight Chan.reset
    x.diff[0].size = 2 ∧ x.diff[0].msize = 5 ∧ x.comb.line.size = 16 ∧ x.crossDelay.size = 2 := by
  decide +kernel

/-- A channel of vectors V80 to V82. -/
def erChan : Chan :=
  { Chan.reset with
    erLpf := ⟨0x3F800000, 0, 0, 0, 0⟩
    erHpf := ⟨0x3F800000, 0, 0, 0, 0⟩
    erTap := emptyLine 16
    erXap := ⟨emptyLine 1, 0, 0x3F800000⟩
    nTaps := 1
    taps := (Vector.replicate 18 ⟨0, 0⟩).set 0 ⟨2, 0x3F000000⟩ }

/-- The reflections of a run of ER_STEP, left then right, cut at a fault. -/
def reflections (P : Params) : State → List Pair → List (Word × Word)
  | _, [] => []
  | s, x :: xs =>
    match erStep P s x with
    | .ok r => (r.1.e.l, r.1.e.r) :: reflections P r.2 xs
    | .error _ => []

/-- Vector V80: an impulse on the left. -/
theorem test_v80_er_step :
    reflections testParams
      { State.reset with eng := { Engine.reset with ew1 := 0x3F800000 }, left := erChan, right := erChan }
      [⟨0x3F800000, 0⟩, ⟨0, 0⟩, ⟨0, 0⟩, ⟨0, 0⟩, ⟨0, 0⟩] =
      [(0, 0), (0, 0), (0x3F000000, 0), (0, 0x3F000000), (0, 0)] := by decide +kernel
/-- Vector V82: the image matrix mixes both channels. -/
theorem test_v82_er_image :
    reflections testParams
      { State.reset with
        eng := { Engine.reset with ew1 := 0x3F000000, ew2 := 0x3F000000 }, left := erChan, right := erChan }
      [⟨0x3F800000, 0⟩, ⟨0, 0⟩, ⟨0, 0⟩, ⟨0, 0⟩] =
      [(0, 0), (0, 0), (0x3E800000, 0x3E800000), (0x3E800000, 0x3E800000)] := by decide +kernel

/-- The output pairs of samples one after another, none where one stops. -/
def samplesOf (P : Params) (s : State) (xs : List Pair) : List (Word × Word) :=
  match sampleSteps P xs s with
  | .ok r => r.1.map (fun y => (y.l, y.r))
  | .error _ => []

/-- Program P4's first pair is exactly (1.0, 1.0), whatever the noise. -/
theorem test_p4_first_pair :
    samplesOf testParams
      { configure testParams false .active (some testVec) State.reset with noise := ⟨List.replicate 20 0, 0⟩ }
      [⟨0x3F800000, 0x3F800000⟩] = [(0x3F800000, 0x3F800000)] := by decide +kernel

/-! ## Steps (programs P1 to P3) -/

/-- What a step answers on the port, none where it stops. -/
def replyOf : Host.Outcome State Fault Refusal → Option (List Word)
  | .next s => some s.reply
  | .fault _ => none
  | .refused _ => none

theorem test_p1_pass_through_keeps_a_nan :
    replyOf (step { State.reset with port := [⟨.host, ⟨0x00000006, [0x7FC00001, 0x80000000]⟩⟩] }) =
      some [0, 0x7FC00001, 0x80000000] := by decide +kernel
theorem test_p1_query : replyOf (step { State.reset with port := [⟨.host, ⟨0x00000008, []⟩⟩] }) = some [0, 0] := by
  decide +kernel
theorem test_p2_block :
    replyOf (step { State.reset with
      mode := .bypass, port := [⟨.host, ⟨0x00000007, [2, 0x3E800000, 0, 0, 0x80000000]⟩⟩] }) =
      some [0, 0x3E800000, 0, 0, 0x80000000] := by decide +kernel
theorem test_p3_rejected : replyOf (step { State.reset with port := [⟨.host, ⟨0x00000201, []⟩⟩] }) = some [2] := by
  decide +kernel
theorem test_withFetchWord_runs_the_word :
    replyOf (step (State.reset.withFetchWord 32 0x00000008)) = some [0, 0] := by decide +kernel

/-! ## Witnesses

A small active state for the open parameters of the block, whatever they are: every line that the graph
reads at offset 0 has length 1, every window one slot, the tap line its whole capacity. -/

/-- A line of length 1 with its all-pass registers at +0.0. -/
def tinyAp1 : Ap1 := ⟨emptyLine 1, 0, 0⟩

/-- A modulated all-pass of length 1 with a window of 1. -/
def tinyApm : Apm := ⟨[], 1, 1, 0, 0, 0, 0⟩

/-- A channel with the least lengths the graph needs. -/
def tinyChan : Chan :=
  { Chan.reset with
    erTap := emptyLine params.capErTap
    erXap := tinyAp1
    diff := .replicate 10 tinyApm
    crossDelay := emptyLine 1
    dampAp1 := tinyApm
    dampAp2 := tinyApm
    cbassAp2 := ⟨tinyAp1, tinyAp1⟩
    cbassAp3 := ⟨tinyAp1, tinyApm, tinyAp1⟩
    comb := ⟨emptyLine 1, 0⟩ }

/-- An active state with oversample factor `f` and the requests `q` waiting. -/
def tiny (f : Nat) (q : List Request) : State :=
  { State.reset with
    mode := .active, eng := { Engine.reset with factor := f }, left := tinyChan, right := tinyChan, port := q }

theorem emptyLine_ok {cap n : Nat} (h : n ≤ cap) : (emptyLine n).Ok cap := by
  refine ⟨h, ?_, rfl, ?_⟩
  · exact (Nat.eq_zero_or_pos n).symm.imp id (fun h => ⟨rfl, h⟩)
  · intro e he
    exact absurd he List.not_mem_nil

theorem tinyApm_ok {cap : Nat} (h : 2 ≤ cap) : tinyApm.Ok cap := by
  refine ⟨.inr ⟨by decide, by decide, h, by decide, by decide⟩, rfl, ?_⟩
  · intro e he
    exact absurd he List.not_mem_nil

theorem tiny_line (f : Nat) (q : List Request) (c : Ch) (r : LineRole) :
    (((tiny f q).chan c).line r) =
      emptyLine (match r with | .dl .erTap => params.capErTap | r => if r.readAtZero then 1 else 0) := by
  cases c <;> rcases r with ⟨_ | _ | _ | _ | _ | _ | _ | _ | _⟩ | _ | _ | _ | _ | _ | _ <;> rfl

theorem tiny_apm (f : Nat) (q : List Request) (c : Ch) (r : ApmRole) :
    ((tiny f q).chan c).apm r = tinyApm := by
  cases c <;> rcases r with i | _ | _ | _ <;> first | rfl | simp [tiny, State.chan, tinyChan, Chan.apm]

theorem test_witness_tiny_line (f : Nat) (q : List Request) (c : Ch) (r : LineRole) :
    (((tiny f q).chan c).line r).Ok (lineCap params r) := by
  rw [tiny_line]
  apply emptyLine_ok
  have h := lineCap_bounds params_ok r
  rcases r with ⟨_ | _ | _ | _ | _ | _ | _ | _ | _⟩ | _ | _ | _ | _ | _ | _ <;>
    simp_all [LineRole.leastCap, LineRole.readAtZero, lineCap]

theorem test_witness_tiny_apm (f : Nat) (q : List Request) (c : Ch) (r : ApmRole) :
    (((tiny f q).chan c).apm r).Ok (apmCap params r) := by
  rw [tiny_apm]
  exact tinyApm_ok (apmCap_bounds params_ok r).1

/-- The invariant, an active mode and a waiting command of the host's hold together; the factor is 1 to 4. -/
theorem test_witness_invariant_active (f : Nat) (hf : 1 ≤ f ∧ f ≤ 4) (r : Record) :
    Inv params (tiny f [⟨.host, r⟩]) ∧ (tiny f [⟨.host, r⟩]).mode = .active := by
  refine ⟨⟨test_witness_tiny_line _ _, test_witness_tiny_apm _ _, rfl,
    (by decide : 0 < noiseLen), ?_, hf.1, hf.2, ?_, ?_⟩, rfl⟩
  · intro l
    cases l <;> exact (by decide : 0 < lfoRenorm)
  · intro _ c
    refine ⟨?_, ?_, by cases c <;> rfl, ?_⟩
    · intro l hl
      rw [tiny_line]
      rcases l with ⟨_ | _ | _ | _ | _ | _ | _ | _ | _⟩ | _ | _ | _ | _ | _ | _ <;>
        simp_all [LineRole.readAtZero, emptyLine]
    · intro l
      rw [tiny_apm]
      decide
    · intro k hk
      exact absurd hk (by cases c <;> exact Nat.not_lt_zero _)
  · intro q hq p hp
    simp only [tiny, List.mem_singleton] at hq
    subst hq
    exact decode_host_ne_derive r p hp

/-- `DecodeOfEncode`: one instruction of each agent, operands at the ends of their ranges. -/
theorem test_witness_DecodeOfEncode :
    ((Instr.cfgPreset true 0xFFFF).wellFormed = true ∧ (Instr.cfgPreset true 0xFFFF).encodable = true) ∧
    ((Instr.dlRead (.inst 0x6D) 0xFFFFFFFF).wellFormed = true ∧
      (Instr.dlRead (.inst 0x6D) 0xFFFFFFFF).encodable = true) ∧
    (Instr.cfgVector false []).wellFormed = true := by decide

theorem test_witness_EncodeOfDecodeOnThePort :
    decode .host ⟨0xFFFF0103, []⟩ = .ok (.cfgPreset true 0xFFFF) := by decide

theorem test_witness_StepRunsTheDecodedInstruction :
    (tiny 1 [⟨.engine, ⟨0x0000021C, []⟩⟩]).port = ⟨.engine, ⟨0x0000021C, []⟩⟩ :: [] ∧
    decode .engine ⟨0x0000021C, []⟩ = .ok (.lfoStep 0x02) ∧
    (tiny 1 [⟨.host, ⟨0x00000008, []⟩⟩]).port = ⟨.host, ⟨0x00000008, []⟩⟩ :: [] ∧
    decode .host ⟨0x00000008, []⟩ = .ok .queryValid := ⟨rfl, by decide, rfl, by decide⟩

theorem test_witness_IdleStepKeepsTheState : State.reset.port = [] := rfl

/-- One record for each rejecting status. -/
theorem test_witness_RejectedCommandsChangeNothing :
    validate params 0x00000000 [] = .illegalOp ∧ validate params 0x00000009 [] = .illegalOp ∧
    validate params 0x00000202 [] = .reserved ∧ validate params 0x00000108 [] = .reserved ∧
    validate params 0x00010002 [] = .reserved ∧ validate params 0x00000006 [1] = .badLength ∧
    validate params 0x00000005 [0] = .badLength ∧ validate params 0x00000007 [] = .badLength := by
  refine ⟨rfl, rfl, rfl, rfl, rfl, rfl, rfl, rfl⟩

/-- `HostCommandsAreAnswered`, `HostRunsNeverStop` and `StepKeepsTheInvariant`: the invariant with a request
of the host's waiting, which a step answers. -/
theorem test_witness_HostRunsNeverStop :
    Inv params (tiny 4 [⟨.host, ⟨0x00000008, []⟩⟩]) ∧
    (∀ q ∈ (tiny 4 [⟨.host, ⟨0x00000008, []⟩⟩]).port, q.origin = Origin.host) ∧
    ∃ t, step (tiny 4 [⟨.host, ⟨0x00000008, []⟩⟩]) = .next t := by
  refine ⟨(test_witness_invariant_active 4 (by decide) _).1, ?_, ⟨_, rfl⟩⟩
  intro q hq
  simp only [tiny, List.mem_singleton] at hq
  rw [hq]

theorem test_witness_InternalOperationsAreIllegalOnThePort :
    (Instr.noiseNext 1).origin = Origin.engine ∧
    (tiny 1 [⟨.host, encode (.noiseNext 1)⟩]).port = ⟨.host, encode (.noiseNext 1)⟩ :: [] := ⟨rfl, rfl⟩

theorem test_witness_NoiseTableIsConstant :
    State.reset.noise.tab = noiseTable ∧ ∃ t, exec (.noiseGenerate 1) State.reset = .next t :=
  ⟨rfl, ⟨_, rfl⟩⟩

/-- Each of the instructions that can change `MODE` does so somewhere. -/
theorem test_witness_ModeIsWrittenByConfigurationOnly :
    (∃ t, exec .reset (tiny 1 []) = .next t ∧ t.mode ≠ (tiny 1 []).mode) ∧
    (∃ t, exec (.cfgBypass false) State.reset = .next t ∧ t.mode ≠ State.reset.mode) ∧
    (∃ t, exec (.cfgAdvanced true testVec) State.reset = .next t ∧ t.mode ≠ State.reset.mode) :=
  ⟨⟨_, rfl, by decide⟩, ⟨_, rfl, by decide⟩, ⟨_, rfl, by decide⟩⟩

theorem test_witness_ConfigurationRegistersAreWrittenByResetAndDeriver :
    ∃ t, exec (.lfoStep 2) State.reset = .next t := ⟨_, rfl⟩

/-- `CfgPresetResult`: preset 0 exists, and an index just outside the test parameters' table does not. -/
theorem test_witness_CfgPresetResult :
    (∃ p, presetRow params (0 : BitVec 16).toNat = some p) ∧
    nPresets testParams ≤ (4 : BitVec 16).toNat :=
  ⟨presetRow_zero params_ok, by decide⟩

/-- `CfgVectorSelectsItsMode`: each mode is selected by a vector of the greatest length. -/
theorem test_witness_CfgVectorSelectsItsMode :
    ((List.replicate 63 (0 : Word)).length < 64 ∧
      eq32 params.sentinelBypass params.sentinelBypass = true) ∧
    ((List.replicate 62 (0 : Word)).length < 63 ∧
      eq32 params.sentinelPreset params.sentinelBypass = false ∧
      eq32 params.sentinelPreset params.sentinelPreset = true ∧
      val32 0 = .fin false 0 (-149) ∧ 0 ≤ truncFin false 0 (-149) ∧
      ∃ p, presetRow params (truncFin false 0 (-149)).toNat = some p) ∧
    ((List.replicate 47 (0 : Word)).length ≤ 47 ∧
      eq32 testVec.rate params.sentinelBypass = false ∧
      eq32 testVec.rate params.sentinelPreset = false) := by
  have hs := sentinels_le params_ok
  have hr := sentinels_ne_of_pos params_ok (x := testVec.rate) (m := 12288000) (e := -8)
    (by decide +kernel) (by decide)
  exact ⟨⟨by decide, eq32_self_of_le32 hs.2⟩,
    ⟨by decide, sentinels_ne params_ok, eq32_self_of_le32 hs.1, by decide +kernel, by decide,
      presetRow_zero params_ok⟩, by decide, hr.2, hr.1⟩

/-- `CfgVectorRejections`: the shortest and longest vectors each clause rejects; a NaN and -1.0 as index. -/
theorem test_witness_CfgVectorRejections :
    64 < (List.replicate 65 (0 : Word)).length ∧
    (eq32 params.sentinelPreset params.sentinelBypass = false ∧
      eq32 params.sentinelPreset params.sentinelPreset = true) ∧
    ((List.replicate 15 (0 : Word)).length < 16 ∧
      eq32 testVec.rate params.sentinelBypass = false ∧
      eq32 testVec.rate params.sentinelPreset = false) ∧
    (∀ neg m e, val32 0x7FC00000 = .fin neg m e →
      truncFin neg m e < 0 ∨ nPresets params ≤ (truncFin neg m e).toNat) ∧
    ∀ neg m e, val32 0xBF800000 = .fin neg m e →
      truncFin neg m e < 0 ∨ nPresets params ≤ (truncFin neg m e).toNat := by
  have hr := sentinels_ne_of_pos params_ok (x := testVec.rate) (m := 12288000) (e := -8)
    (by decide +kernel) (by decide)
  have hn : val32 0x7FC00000 = .nan := by decide +kernel
  have hm : val32 0xBF800000 = .fin true 8388608 (-23) := by decide +kernel
  refine ⟨by decide, ⟨sentinels_ne params_ok, eq32_self_of_le32 (sentinels_le params_ok).1⟩,
    ⟨by decide, hr.2, hr.1⟩, ?_, ?_⟩
  · intro neg m e h
    rw [hn] at h
    cases h
  · intro neg m e h
    rw [hm] at h
    cases h
    exact .inl (by decide)

/-- `ConfigurationIsIdempotent`: two states that share the table, and an accepted command of each kind, with
the first and the last instruction at either policy. -/
theorem test_witness_ConfigurationIsIdempotent (keep : Bool) :
    State.reset.noise.tab = (tiny 1 []).noise.tab ∧
    ConfiguresParameters params keep (.cfgPreset keep 0) ∧
    ConfiguresParameters params keep (.cfgAdvanced keep testVec) ∧
    ConfiguresParameters params keep (.cfgVector keep [params.sentinelPreset, 0]) ∧
    ConfiguresParameters params keep (.cfgVector keep testVec.words) := by
  have hn : ¬ nPresets params = 0 := by
    have := (presets_bounds params_ok).1
    simp only [nPresets]
    omega
  have hs := sentinels_le params_ok
  have hb := sentinels_ne params_ok
  have hp := eq32_self_of_le32 hs.1
  have hr := sentinels_ne_of_pos params_ok (x := testVec.rate) (m := 12288000) (e := -8)
    (by decide +kernel) (by decide)
  have hz : presetOfIndex params 0#32 ≠ none := by
    have h0 : val32 0#32 = .fin false 0 (-149) := by decide +kernel
    obtain ⟨p, hp⟩ := presetRow_zero params_ok
    unfold presetOfIndex
    rw [h0]
    show presetRow params 0 ≠ none
    simp [hp]
  refine ⟨rfl, ⟨?_, .inl ⟨_, rfl⟩⟩, ⟨?_, .inr (.inl ⟨_, rfl⟩)⟩,
    ⟨?_, .inr (.inr ⟨_, _, rfl, hb⟩)⟩, ⟨?_, .inr (.inr ⟨_, _, rfl, hr.2⟩)⟩⟩
  · show validate params (headerH 0x03 keep 0) [] = .ok
    cases keep <;> simp [validate, headerH, opOf, rsvOf, preserveOf, immOf, hn]
  · show validate params (headerH 0x04 keep 0) testVec.words = .ok
    cases keep <;> simp [validate, headerH, opOf, rsvOf, preserveOf, immOf]
  · show validate params (headerH 0x05 keep 0) [2, params.sentinelPreset, 0] = .ok
    cases keep <;> simp [validate, headerH, opOf, rsvOf, preserveOf, immOf, hb, hp, hz, vecMax]
  · show validate params (headerH 0x05 keep 0) (17 :: testVec.words) = .ok
    have h1 : eq32 0x473B8000#32 params.sentinelPreset = false := hr.1
    have h2 : eq32 0x473B8000#32 params.sentinelBypass = false := hr.2
    cases keep <;>
      simp [validate, headerH, opOf, rsvOf, preserveOf, immOf, h1, h2, vecMax, testVec, ParamVec.words]

theorem test_witness_ModeDispatch : State.reset.mode ≠ .active ∧ (tiny 1 []).mode = .active :=
  ⟨by decide, rfl⟩

/-- `ChunkingInvariance`: an empty block between two others. -/
theorem test_witness_ChunkingInvariance :
    ∃ r, runBlocks [[⟨1, 2⟩], [], [⟨3, 4⟩]] State.reset = some r := ⟨_, rfl⟩

/-- The delay line's statements, on a wire, on a line of length 1, on the tap line, and on the lines inside
an all-pass and a comb. -/
theorem test_witness_DlResults :
    (lineOfPlace (.inst 0x10) = some (.left, .dl .preWet) ∧
      ((tiny 1 []).chan .left).preWet.size = 0) ∧
    (lineOfPlace (.inst 0x51) = some (.right, .dl .crossDelay) ∧
      (0 : Word).toNat < (((tiny 1 []).chan .right).line (.dl .crossDelay)).size) ∧
    (lineOfPlace (.inst 0x18) = some (.left, .dl .erTap) ∧
      (1 : Word).toNat < (((tiny 1 []).chan .left).line (.dl .erTap)).size) ∧
    lineOfPlace (.secLine 0x66 2) = some (.left, .cbassAp3S2) ∧
    lineOfPlace (.line 0x69) = some (.right, .comb) ∧
    ∀ c r, (((tiny 1 []).chan c).line r).Ok (lineCap params r) := by
  refine ⟨⟨by decide, rfl⟩, ⟨by decide, Nat.one_pos⟩, ⟨by decide, ?_⟩, by decide, by decide,
    test_witness_tiny_line 1 []⟩
  exact (lineCap_bounds params_ok (.dl .erTap)).1

/-- `AgeOfRead`: a line of length 2 after three writes, at its two offsets. -/
theorem test_witness_AgeOfRead :
    (emptyLine 2).Ok 2 ∧ (emptyLine 2).cursor = 0 ∧
    (∀ i, i < (emptyLine 2).size → Memory.read (emptyLine 2).buf i = 0) ∧
    (writeAll 2 (emptyLine 2) [5, 6, 7]).toOption = some ⟨[(0, 7), (1, 6)], 2, 1⟩ ∧
    0 < (emptyLine 2).size ∧ 1 < (emptyLine 2).size :=
  ⟨emptyLine_ok (by decide), rfl, fun _ _ => rfl, by decide, by decide, by decide⟩

theorem test_witness_FilterResults :
    iir1OfId 0x04 = some .lfo1 ∧ iir1OfId 0x53 = some (.chan .right .crossLpf) ∧
    bqOfId 0x1E = some (.left, .osUp) ∧ bqOfId 0x6B = some (.right, .outLpf) ∧
    dccOfId 0x22 = some .left ∧ dccOfId 0x23 = some .right := by decide

/-- The all-pass and comb statements, on instances and on sections, at the least lengths. -/
theorem test_witness_AllpassResults :
    ap1OfPlace (.inst 0x1C) = some (.left, .erXap) ∧ ap1OfPlace (.sec 0x63 1) = some (.right, .cbassAp2S1) ∧
    ap2OfId 0x62 = some .left ∧ ap3mOfId 0x67 = some .right ∧
    apmOfPlace (.inst 0x49) = some (.right, .diff 9) ∧ apmOfPlace (.sec 0x66 1) = some (.left, .cbassAp3S1) ∧
    combOfId 0x68 = some .left ∧
    (∀ c, (∀ r, 1 ≤ (((tiny 1 []).chan c).ap1 r).line.size) ∧
      (∀ r, 1 ≤ (((tiny 1 []).chan c).apm r).size) ∧ 1 ≤ ((tiny 1 []).chan c).comb.line.size) ∧
    (∀ c r, (((tiny 1 []).chan c).line r).Ok (lineCap params r)) ∧
    ∀ c r, (((tiny 1 []).chan c).apm r).Ok (apmCap params r) := by
  refine ⟨by decide, by decide, by decide, by decide, by decide, by decide, by decide, ?_,
    test_witness_tiny_line 1 [], test_witness_tiny_apm 1 []⟩
  intro c
  refine ⟨?_, ?_, ?_⟩
  · intro r
    cases c <;> cases r <;> exact Nat.le_refl 1
  · intro r
    rw [tiny_apm]
    exact Nat.le_refl 1
  · cases c <;> exact Nat.le_refl 1

/-- `ModulationOffset`: the least and the greatest window, and a NaN. -/
theorem test_witness_ModulationOffset :
    1 ≤ 1 ∧ 1 < 2 ^ 24 ∧ 1 ≤ 2 ^ 24 - 1 ∧ 2 ^ 24 - 1 < 2 ^ 24 ∧ isNaN32 0x7FC00000 = true := by
  decide +kernel

theorem test_witness_NoiseResults :
    isNoiseId 1 = true ∧ State.reset.noise.tab = noiseTable ∧
    ({ State.reset with noise := ⟨noiseTable, 16383⟩ } : State).noise.npos < 16384 :=
  ⟨by decide, rfl, by decide⟩

theorem test_witness_LfoStepResult : lfoOfId 2 = some .lfo1 ∧ lfoOfId 3 = some .lfo2 := by decide

/-- `OsUpResult` and `OsDownResult`: the first and the last sub-step. -/
theorem test_witness_OsResults :
    bqOfId 0x1F = some (.right, .osUp) ∧ 2 ≤ (tiny 4 []).eng.factor ∧
    (0 : Word).toNat < (tiny 4 []).eng.factor ∧ (3 : Word).toNat < (tiny 4 []).eng.factor :=
  ⟨by decide, by show 2 ≤ 4; decide, by show 0 < 4; decide, by show 3 < 4; decide⟩

/-- A line longer than every capacity. -/
def longLine : Line := emptyLine (2 ^ 24 + 1)

theorem longLine_stop (r : LineRole) : longLine.stop (lineCap params r) = some .lengthAboveCapacity := by
  have h := (lineCap_bounds params_ok r).2
  have hc : lineCap params r < longLine.size := Nat.lt_succ_of_le h
  simp only [Line.stop, if_pos hc]
  exact if_neg (Nat.succ_ne_zero _)

/-- `FalsePreconditionsFault`: lines and sections at the boundary of each clause. -/
theorem test_witness_FalsePreconditionsFault :
    (lineOfPlace (.inst 0x50) = some (.left, .dl .crossDelay) ∧
      ((State.reset.chan .left).line (.dl .crossDelay)).size = 0 ∧
      1 ≤ (((tiny 1 []).chan .left).line (.dl .crossDelay)).size ∧
      (((tiny 1 []).chan .left).line (.dl .crossDelay)).size ≤ lineCap params (.dl .crossDelay) ∧
      (((tiny 1 []).chan .left).line (.dl .crossDelay)).size ≤ (1 : Word).toNat) ∧
    (∀ r, lineCap params r < longLine.size ∧ longLine.stop (lineCap params r) = some .lengthAboveCapacity ∧
      (emptyLine 0).stop (lineCap params r) = some .emptyLine) ∧
    ap1OfPlace (.inst 0x1C) = some (.left, .erXap) ∧ ap2OfId 0x62 = some .left ∧
    ap3mOfId 0x66 = some .left ∧ combOfId 0x69 = some .right ∧
    (apmOfPlace (.inst 0x5A) = some (.left, .dampAp1) ∧
      ∀ r, ({ tinyApm with msize := 0 } : Apm).stop (apmCap params r) = some .emptyWindow ∧
        ({ tinyApm with size := 2 ^ 24 } : Apm).stop (apmCap params r) = some .lengthAboveCapacity) ∧
    (bqOfId 0x1E = some (.left, .osUp) ∧ State.reset.eng.factor < 2 ∧ 2 ≤ (tiny 2 []).eng.factor ∧
      (tiny 2 []).eng.factor ≤ (2 : Word).toNat) ∧
    State.reset.mode ≠ .active ∧ (tiny 0 []).mode = .active ∧ (tiny 0 []).eng.factor = 0 := by
  refine ⟨⟨by decide, rfl, Nat.le_refl 1, ?_, Nat.le_refl 1⟩, ?_, by decide, by decide, by decide, by decide,
    ⟨by decide, ?_⟩, ⟨by decide, by decide, Nat.le_refl 2, Nat.le_refl 2⟩, by decide, rfl, rfl⟩
  · exact (lineCap_bounds params_ok (.dl .crossDelay)).1
  · intro r
    exact ⟨Nat.lt_succ_of_le (lineCap_bounds params_ok r).2, longLine_stop r, rfl⟩
  · intro r
    have h : apmCap params r < 2 ^ 24 + 1 := Nat.lt_succ_of_le (apmCap_bounds params_ok r).2
    refine ⟨rfl, ?_⟩
    unfold Apm.stop
    split
    · rename_i h0
      exact absurd h0 (by decide)
    · exact if_pos h

/-- A cursor beyond the buffer: a line of length 1 whose cursor is the greatest capacity. -/
theorem test_witness_cursor_beyond_the_buffer (r : LineRole) :
    lineCap params r ≤ ({ emptyLine 1 with cursor := 2 ^ 24 } : Line).cursor :=
  (lineCap_bounds params_ok r).2

/-- `FalsePreconditionsFault` on a cascade whose second section is empty, the first in order. -/
theorem test_witness_cascades_stop (c : Ch) :
    let s : State := { tiny 1 [] with
      left := { tinyChan with cbassAp2 := ⟨tinyAp1, .reset⟩, cbassAp3 := ⟨tinyAp1, tinyApm, .reset⟩ }
      right := { tinyChan with cbassAp2 := ⟨tinyAp1, .reset⟩, cbassAp3 := ⟨tinyAp1, tinyApm, .reset⟩ } }
    (s.chan c).cbassAp2.s0.line.Ok (lineCap params .cbassAp2S0) ∧ 1 ≤ (s.chan c).cbassAp2.s0.line.size ∧
    (s.chan c).cbassAp2.s1.line.stop (lineCap params .cbassAp2S1) = some .emptyLine ∧
    (s.chan c).cbassAp3.s0.line.Ok (lineCap params .cbassAp3S0) ∧ 1 ≤ (s.chan c).cbassAp3.s0.line.size ∧
    (s.chan c).cbassAp3.s1.Ok (apmCap params .cbassAp3S1) ∧ 1 ≤ (s.chan c).cbassAp3.s1.size ∧
    (s.chan c).cbassAp3.s2.line.stop (lineCap params .cbassAp3S2) = some .emptyLine := by
  have h0 : (emptyLine 1).Ok (lineCap params .cbassAp2S0) :=
    emptyLine_ok (lineCap_bounds params_ok .cbassAp2S0).1
  have h1 : (emptyLine 1).Ok (lineCap params .cbassAp3S0) :=
    emptyLine_ok (lineCap_bounds params_ok .cbassAp3S0).1
  have h2 := tinyApm_ok (apmCap_bounds params_ok .cbassAp3S1).1
  cases c <;> exact ⟨h0, Nat.le_refl 1, rfl, h1, Nat.le_refl 1, h2, Nat.le_refl 1, rfl⟩

theorem test_witness_WrongInstancesFault :
    (Instr.dlWrite (.inst 0xFF) 0).wellFormed = false ∧
    (∀ keep v, Instr.dlWrite (.inst 0xFF) 0 ≠ .cfgVector keep v) ∧
    ∀ xs, Instr.dlWrite (.inst 0xFF) 0 ≠ .processBlock xs :=
  ⟨by decide, nofun, nofun⟩

/-- The graph's statements: an active state of the invariant without oversampling, and one with the
greatest factor. -/
theorem test_witness_GraphResults (r : Record) :
    (Inv params (tiny 1 [⟨.host, r⟩]) ∧ (tiny 1 [⟨.host, r⟩]).mode = .active) ∧
    (Inv params (tiny 4 [⟨.host, r⟩]) ∧ (tiny 4 [⟨.host, r⟩]).mode = .active) :=
  ⟨test_witness_invariant_active 1 (by decide) r, test_witness_invariant_active 4 (by decide) r⟩

/-- `DerivedLengths`: products for TOS below 0, at the upper bound and between the bounds. (A NaN product of an
operation has an open payload, so that clause has its witness in `test_witness_tos_nan`.) -/
theorem test_witness_tos :
    lt64 (mul64 0xBFF0000000000000 0x40E7700000000000) 0 = true ∧
    (lt64 (mul64 0x3FF0000000000000 0x40E7700000000000) 0 = false ∧
      le64 (nat64 10) (mul64 0x3FF0000000000000 0x40E7700000000000) = true) ∧
    (lt64 (mul64 0x3FF0000000000000 0x4014000000000000) 0 = false ∧
      le64 (nat64 10) (mul64 0x3FF0000000000000 0x4014000000000000) = false ∧
      val64 (mul64 0x3FF0000000000000 0x4014000000000000) = .fin false 5629499534213120 (-50)) := by
  decide +kernel

theorem test_witness_tos_nan : val64 (mul64 0x7FF8000000000000 0x3FF0000000000000) = .nan := by
  have h : mul64 0x7FF8000000000000 0x3FF0000000000000 =
      nan64 .mul 0x7FF8000000000000 0x3FF0000000000000 := rfl
  rw [h, nan64]
  split
  · rename_i h
    simpa [isNaN64] using h
  · decide +kernel

/-- The deriver's statements: a vector in range, one out of range, both signs of the delay, and parameters
that meet the constraints. -/
theorem test_witness_DerivedRegisters :
    inRange testVec = true ∧ inRange { testVec with rt60 := 0 } = false ∧
    val32 testVec.oversample = .fin false 8388608 (-23) ∧
    le64 0 (widen testVec.delay) = true ∧ le64 0 (widen 0xBD800000) = false ∧
    (testParams.topo.ch .left).erTaps.length ≤ 18 ∧ paramsOk testParams = true := by decide +kernel

end Sys2Proof.Tests
end

/-! # Streaming never stops on a state that is in order (rules R15, R16 and R61)

Each operation of the graph succeeds on registers that are ready for it and leaves them so; the proof follows
the graph from the primitive operations to a block of samples. -/

namespace Sys2Proof.Machine

open Sys2Proof.Config (Params)

/-! ## Computations that meet no fault -/

/-- The computation meets no fault, and its value has the property. -/
def Succeeds {α : Type} (x : Except Fault α) (Q : α → Prop) : Prop := ∃ a, x = .ok a ∧ Q a

theorem Succeeds.ok {α : Type} {a : α} {Q : α → Prop} (h : Q a) : Succeeds (.ok a) Q := ⟨a, rfl, h⟩

theorem Succeeds.bind {α β : Type} {x : Except Fault α} {f : α → Except Fault β} {Q : α → Prop}
    {R : β → Prop} (hx : Succeeds x Q) (hf : ∀ a, Q a → Succeeds (f a) R) : Succeeds (x >>= f) R := by
  obtain ⟨a, rfl, ha⟩ := hx
  exact hf a ha

theorem Succeeds.mono {α : Type} {x : Except Fault α} {Q R : α → Prop} (hx : Succeeds x Q)
    (h : ∀ a, Q a → R a) : Succeeds x R := by
  obtain ⟨a, rfl, ha⟩ := hx
  exact ⟨a, rfl, h a ha⟩

/-! ## The primitive operations

A streaming operation advances a line or a modulated all-pass: it stays in order and keeps its lengths. -/

/-- A line after a streaming operation: in order, of the same length. -/
structure Line.Advances (cap : Nat) (d d' : Line) : Prop where
  ok : d'.Ok cap
  size : d'.size = d.size

/-- A modulated all-pass after a streaming operation: in order, of the same lengths. -/
structure Apm.Advances (cap : Nat) (a a' : Apm) : Prop where
  ok : a'.Ok cap
  size : a'.size = a.size
  msize : a'.msize = a.msize

theorem lineWrite_succeeds {cap : Nat} {d : Line} (h : d.Ok cap) (x : Word) :
    Succeeds (lineWrite cap d x) (d.Advances cap) := by
  obtain ⟨d', hw, _, hd'⟩ := lineWrite_ok h x
  exact ⟨d', hw, hd', lineWrite_size hw⟩

theorem lineProcess_succeeds {cap : Nat} {d : Line} (h : d.Ok cap) (x : Word) :
    Succeeds (lineProcess cap d x) fun r => d.Advances cap r.2 := by
  obtain ⟨y, d', hp, _, hd'⟩ := lineProcess_ok h x
  exact ⟨(y, d'), hp, hd', lineProcess_size hp⟩

theorem ap1Process_succeeds {cap : Nat} {a : Ap1} (h : a.line.Ok cap) (hs : a.line.size ≠ 0) (x : Word) :
    Succeeds (ap1Process cap a x) fun r => a.line.Advances cap r.2.line := by
  obtain ⟨y, a', hp, _, ha'⟩ := ap1Process_ok h hs x
  exact ⟨(y, a'), hp, ha', (ap1Process_config hp).1⟩

theorem apmProcess_succeeds {cap : Nat} {a : Apm} (h : a.Ok cap) (hs : a.size ≠ 0) (x m : Word) :
    Succeeds (apmProcess cap a x m) fun r => a.Advances cap r.2 := by
  obtain ⟨y, a', hp, _, ha'⟩ := apmProcess_ok h hs x m
  obtain ⟨hsize, hmsize, _, _⟩ := apmProcess_config hp
  exact ⟨(y, a'), hp, ha', hsize, hmsize⟩

theorem combProcess_succeeds {cap : Nat} {k : Comb} (h : k.line.Ok cap) (hs : k.line.size ≠ 0) (x : Word) :
    Succeeds (combProcess cap k x) fun r => k.line.Advances cap r.2.line := by
  obtain ⟨y, k', hp, _, hk'⟩ := combProcess_ok h hs x
  exact ⟨(y, k'), hp, hk', (combProcess_config hp).1⟩

/-! ## A channel -/

/-- A channel that the graph can run on: every part in order (rule R61) and ready. -/
structure Chan.Sound (P : Params) (x : Chan) : Prop where
  line_ok : ∀ r, (x.line r).Ok (lineCap P r)
  apm_ok : ∀ r, (x.apm r).Ok (apmCap P r)
  ready : x.Ready P

section
variable {P : Params} {x y : Chan}

theorem Chan.Sound.line_ne_zero (h : x.Sound P) (r : LineRole) (hr : r.readAtZero = true) :
    (x.line r).size ≠ 0 :=
  Nat.one_le_iff_ne_zero.mp (h.ready.line_size r hr)

theorem Chan.Sound.apm_ne_zero (h : x.Sound P) (r : ApmRole) : (x.apm r).size ≠ 0 :=
  Nat.one_le_iff_ne_zero.mp (h.ready.apm_size r).1

/-- Readiness speaks of lengths and taps only. -/
theorem Chan.Ready.of_sizes (h : x.Ready P) (hl : ∀ r, (y.line r).size = (x.line r).size)
    (ha : ∀ r, (y.apm r).size = (x.apm r).size ∧ (y.apm r).msize = (x.apm r).msize)
    (hn : y.nTaps = x.nTaps) (ht : y.taps = x.taps) : y.Ready P where
  line_size r hr := hl r ▸ h.line_size r hr
  apm_size r := by rw [(ha r).1, (ha r).2]; exact h.apm_size r
  tap_line := (hl (.dl .erTap)).trans h.tap_line
  tap_off := by rw [hn, ht]; exact h.tap_off

/-- A sound channel stays sound where its lines and modulated all-passes advance and its taps stay. -/
theorem Chan.Sound.of_advances (h : x.Sound P) (hl : ∀ r, (x.line r).Advances (lineCap P r) (y.line r))
    (ha : ∀ r, (x.apm r).Advances (apmCap P r) (y.apm r)) (hn : y.nTaps = x.nTaps)
    (ht : y.taps = x.taps) : y.Sound P where
  line_ok r := (hl r).ok
  apm_ok r := (ha r).ok
  ready := h.ready.of_sizes (fun r => (hl r).size) (fun r => ⟨(ha r).size, (ha r).msize⟩) hn ht

theorem Chan.Sound.line_advances (h : x.Sound P) (r : LineRole) :
    (x.line r).Advances (lineCap P r) (x.line r) := ⟨h.line_ok r, rfl⟩

theorem Chan.Sound.apm_advances (h : x.Sound P) (r : ApmRole) :
    (x.apm r).Advances (apmCap P r) (x.apm r) := ⟨h.apm_ok r, rfl, rfl⟩

theorem Chan.Sound.setLine (h : x.Sound P) (r : LineRole) {d : Line}
    (hd : (x.line r).Advances (lineCap P r) d) : (x.setLine r d).Sound P := by
  refine h.of_advances (fun q => ?_) (fun q => ?_) (by simp) (by simp)
  · rw [Chan.line_setLine]
    split
    · subst q; exact hd
    · exact h.line_advances q
  · rw [Chan.apm_setLine]
    exact h.apm_advances q

theorem Chan.Sound.setAp1 (h : x.Sound P) (r : Ap1Role) {a : Ap1}
    (ha : (x.ap1 r).line.Advances (lineCap P r.line) a.line) : (x.setAp1 r a).Sound P := by
  refine h.of_advances (fun q => ?_) (fun q => ?_) (by simp) (by simp)
  · rw [Chan.line_setAp1]
    split
    · subst q; rw [← Chan.ap1_line]; exact ha
    · exact h.line_advances q
  · rw [Chan.apm_setAp1]
    exact h.apm_advances q

theorem Chan.Sound.setApm (h : x.Sound P) (r : ApmRole) {a : Apm}
    (ha : (x.apm r).Advances (apmCap P r) a) : (x.setApm r a).Sound P := by
  refine h.of_advances (fun q => ?_) (fun q => ?_) (by simp) (by simp)
  · rw [Chan.line_setApm]
    exact h.line_advances q
  · rw [Chan.apm_setApm]
    split
    · subst q; exact ha
    · exact h.apm_advances q

/-- A change that keeps every line, every modulated all-pass and the taps keeps a sound channel sound. -/
theorem Chan.Sound.of_eq (h : x.Sound P) (hl : ∀ r, y.line r = x.line r) (ha : ∀ r, y.apm r = x.apm r)
    (hn : y.nTaps = x.nTaps) (ht : y.taps = x.taps) : y.Sound P :=
  h.of_advances (fun r => by rw [hl]; exact h.line_advances r)
    (fun r => by rw [ha]; exact h.apm_advances r) hn ht

theorem Chan.Sound.setIir1 (h : x.Sound P) (r : Iir1Role) (f : Iir1) : (x.setIir1 r f).Sound P :=
  h.of_eq (by simp) (by simp) (by simp) (by simp)

theorem Chan.Sound.setBq (h : x.Sound P) (r : BqRole) (q : Bq) : (x.setBq r q).Sound P :=
  h.of_eq (by simp) (by simp) (by simp) (by simp)

theorem Chan.Sound.setDcc (h : x.Sound P) (d : Dcc) : ({ x with dccut := d } : Chan).Sound P :=
  h.of_eq (fun _ => rfl) (fun _ => rfl) rfl rfl

/-- A comb is its line and a feedback, and the feedback is of no concern here. -/
theorem Chan.Sound.setComb (h : x.Sound P) {k : Comb}
    (hk : x.comb.line.Advances (lineCap P .comb) k.line) : ({ x with comb := k } : Chan).Sound P :=
  (h.setLine .comb (d := k.line) hk).of_eq (fun _ => rfl) (fun _ => rfl) rfl rfl

/-! ## The stages of a channel -/

theorem erShape_sound (h : x.Sound P) (v : Word) : (erShape x v).2.Sound P :=
  let l := iir1Process x.erLpf v
  (h.setIir1 .erLpf l.2).setIir1 .erHpf (iir1Process x.erHpf l.1).2

theorem dcStage_sound (h : x.Sound P) (u : Word) : (dcStage x u).2.Sound P := h.setDcc _

theorem crossFilter_sound (h : x.Sound P) (v : Word) : (crossFilter x v).2.Sound P :=
  h.setIir1 .crossLpf _

theorem bassStage_sound (h : x.Sound P) (b q : Word) : (bassStage b x q).2.Sound P :=
  let a := bqProcess x.bassAp q
  (h.setBq .bassAp a.2).setBq .bassLpf (bqProcess x.bassLpf a.1).2

theorem tapSum_succeeds {cap : Nat} {d : Line} (hc : d.size ≤ cap) {ks : List Tap}
    (hk : ∀ k ∈ ks, k.off < d.size) (t : Word) : Succeeds (tapSum cap d ks t) fun _ => True := by
  induction ks generalizing t with
  | nil => exact .ok trivial
  | cons k ks ih =>
    unfold tapSum
    rw [lineRead_ok hc (hk k List.mem_cons_self), bind_ok]
    exact ih (fun k' hk' => hk k' (List.mem_cons_of_mem _ hk')) _

/-- Every tap that is used lies within the tap line (rules R350 and R409). -/
theorem Chan.Sound.tap_off_lt (h : x.Sound P) {k : Tap} (hk : k ∈ x.taps.toList.take x.nTaps.val) :
    k.off < x.erTap.size := by
  obtain ⟨i, hi, rfl⟩ := List.mem_take_iff_getElem.mp hk
  have hi' : i < 18 ∧ i < x.nTaps.val := by simpa [and_comm] using hi
  rw [h.ready.tap_line]
  exact (h.ready.tap_off ⟨i, hi'.1⟩ hi'.2).2

theorem erTaps_succeeds (h : x.Sound P) : Succeeds (erTaps P x) fun _ => True :=
  tapSum_succeeds (h.line_ok (.dl .erTap)).size_le (fun _ hk => h.tap_off_lt hk) 0

theorem erStore_succeeds (h : x.Sound P) (a : Word) : Succeeds (erStore P x a) fun r => r.2.Sound P :=
  (lineWrite_succeeds (h.line_ok (.dl .erTap)) a).bind fun _ hd => .ok (h.setLine (.dl .erTap) hd)

theorem erCross_succeeds (h : x.Sound P) (t : Word) : Succeeds (erCross P x t) fun r => r.2.Sound P := by
  refine (lineProcess_succeeds (h.line_ok (.dl .erXdelay)) t).bind fun d hd => ?_
  have h1 := h.setLine (.dl .erXdelay) hd
  refine (ap1Process_succeeds (h1.line_ok .erXap) (h1.line_ne_zero .erXap rfl) d.1).bind fun a ha => ?_
  exact .ok (h1.setAp1 .erXap ha)

theorem crossStore_succeeds (h : x.Sound P) (p : Word) :
    Succeeds (crossStore P x p) fun r => r.2.Sound P :=
  (lineWrite_succeeds (h.line_ok (.dl .crossDelay)) p).bind fun _ hd =>
    .ok (h.setLine (.dl .crossDelay) hd)

theorem dampStage_succeeds (h : x.Sound P) (m b : Word) :
    Succeeds (dampStage P m x b) fun r => r.2.Sound P := by
  have h1 := h.setIir1 .dampLpf (iir1Process x.dampLpf b).2
  refine (apmProcess_succeeds (h1.apm_ok .dampAp1) (h1.apm_ne_zero .dampAp1) _ m).bind fun a ha => ?_
  have h2 := h1.setApm .dampAp1 ha
  refine (apmProcess_succeeds (h2.apm_ok .dampAp2) (h2.apm_ne_zero .dampAp2) a.1 m).bind fun a' ha' => ?_
  have h3 := h2.setApm .dampAp2 ha'
  refine (lineProcess_succeeds (h3.line_ok (.dl .dampDelay)) a'.1).bind fun d hd => ?_
  exact .ok (h3.setLine (.dl .dampDelay) hd)

/-- AP2_PROCESS inside a sound channel (rule R264). -/
theorem ap2Process_succeeds (h : x.Sound P) (v : Word) :
    Succeeds (ap2Process P x.cbassAp2 v) fun r => ({ x with cbassAp2 := r.2 } : Chan).Sound P := by
  refine (ap1Process_succeeds (h.line_ok .cbassAp2S0) (h.line_ne_zero .cbassAp2S0 rfl) v).bind fun a ha => ?_
  have h1 := h.setAp1 .cbassAp2S0 ha
  refine (ap1Process_succeeds (h1.line_ok .cbassAp2S1) (h1.line_ne_zero .cbassAp2S1 rfl) a.1).bind
    fun b hb => ?_
  exact .ok (h1.setAp1 .cbassAp2S1 hb)

/-- AP3M_PROCESS inside a sound channel (rule R265). -/
theorem ap3mProcess_succeeds (h : x.Sound P) (v m : Word) :
    Succeeds (ap3mProcess P x.cbassAp3 v m) fun r => ({ x with cbassAp3 := r.2 } : Chan).Sound P := by
  refine (ap1Process_succeeds (h.line_ok .cbassAp3S0) (h.line_ne_zero .cbassAp3S0 rfl) v).bind fun a ha => ?_
  have h1 := h.setAp1 .cbassAp3S0 ha
  refine (apmProcess_succeeds (h1.apm_ok .cbassAp3S1) (h1.apm_ne_zero .cbassAp3S1) a.1 m).bind
    fun b hb => ?_
  have h2 := h1.setApm .cbassAp3S1 hb
  refine (ap1Process_succeeds (h2.line_ok .cbassAp3S2) (h2.line_ne_zero .cbassAp3S2 rfl) b.1).bind
    fun c hc => ?_
  exact .ok (h2.setAp1 .cbassAp3S2 hc)

theorem cbassStage_succeeds (h : x.Sound P) (m v : Word) :
    Succeeds (cbassStage P m x v) fun r => r.2.Sound P := by
  refine (lineProcess_succeeds (h.line_ok (.dl .cbassD1)) v).bind fun d1 hd1 => ?_
  have h1 := h.setLine (.dl .cbassD1) hd1
  refine (ap2Process_succeeds h1 d1.1).bind fun a2 h2 => ?_
  refine (lineProcess_succeeds (h2.line_ok (.dl .cbassD2)) a2.1).bind fun d2 hd2 => ?_
  have h3 := h2.setLine (.dl .cbassD2) hd2
  exact (ap3mProcess_succeeds h3 d2.1 m).bind fun a3 h4 => .ok h4

theorem combStage_succeeds (h : x.Sound P) (k : Word) :
    Succeeds (combStage P x k) fun r => r.2.Sound P :=
  (combProcess_succeeds (h.line_ok .comb) (h.line_ne_zero .comb rfl) k).bind fun _ hk => .ok (h.setComb hk)

theorem outStage_succeeds (h : x.Sound P) (z : Word) : Succeeds (outStage P x z) fun r => r.2.Sound P := by
  have h1 := h.setBq .outLpf (bqProcess x.outLpf z).2
  refine (lineProcess_succeeds (h1.line_ok (.dl .outDelay)) _).bind fun d hd => ?_
  exact .ok (h1.setLine (.dl .outDelay) hd)

theorem preWetStage_succeeds (h : x.Sound P) (v : Word) :
    Succeeds (preWetStage P x v) fun r => r.2.Sound P :=
  (lineProcess_succeeds (h.line_ok (.dl .preWet)) v).bind fun _ hd => .ok (h.setLine (.dl .preWet) hd)

theorem preDryStage_succeeds (h : x.Sound P) (v : Word) :
    Succeeds (preDryStage P x v) fun r => r.2.Sound P :=
  (lineProcess_succeeds (h.line_ok (.dl .preDry)) v).bind fun _ hd => .ok (h.setLine (.dl .preDry) hd)

theorem upStage_succeeds (h : x.Sound P) {factor j : Nat} (hf : 2 ≤ factor) (hj : j < factor) (u : Word) :
    Succeeds (upStage factor j x u) fun r => r.2.Sound P := by
  unfold upStage osUpStep
  rw [if_neg (by omega), if_neg (by omega), bind_ok]
  exact .ok (h.setBq .osUp _)

theorem downStage_succeeds (h : x.Sound P) {factor : Nat} (hf : 2 ≤ factor) (z : Word) :
    Succeeds (downStage factor x z) fun r => r.2.Sound P := by
  unfold downStage osDownStep
  rw [if_neg (by omega), bind_ok]
  exact .ok (h.setBq .osDown _)

/-! ## The noise source and the diffusion sections -/

/-- The noise source in order: the generated table, read inside it (rules R61 and R305). -/
structure Noise.Ok (n : Noise) : Prop where
  tab : n.tab = noiseTable
  npos : n.npos < noiseLen

theorem noiseNext_succeeds {n : Noise} (h : n.Ok) : Succeeds (noiseNext n) fun r => r.2.Ok :=
  ⟨_, noiseNext_ok h.tab h.npos, h.tab, Nat.mod_lt _ (Nat.two_pow_pos 14)⟩

theorem diffuse_succeeds {is : List (Fin 10)} {v : Vector Apm 10} {n : Noise}
    (h : ({ x with diff := v } : Chan).Sound P) (hn : n.Ok) (w : Word) :
    Succeeds (diffuse P is v n w) fun r => ({ x with diff := r.2.1 } : Chan).Sound P ∧ r.2.2.Ok := by
  induction is generalizing v n w with
  | nil => exact .ok ⟨h, hn⟩
  | cons i is ih =>
    refine (noiseNext_succeeds hn).bind fun m hm => ?_
    refine (apmProcess_succeeds (h.apm_ok (.diff i)) (h.apm_ne_zero (.diff i)) w m.1).bind fun y hy => ?_
    exact ih (h.setApm (.diff i) hy) hm y.1

end

/-! ## The state -/

/-- A state that streaming can reach from `s0` in ACTIVE: the invariant holds, and the mode, the engine's
registers and the waiting requests are those of `s0`. -/
structure Streams (P : Params) (s0 s : State) : Prop where
  inv : Inv P s
  active : s.mode = .active
  eng : s.eng = s0.eng
  port : s.port = s0.port

section
variable {P : Params} {s0 s : State}

theorem Streams.refl (h : Inv P s) (ha : s.mode = .active) : Streams P s s := ⟨h, ha, rfl, rfl⟩

theorem Streams.chan (h : Streams P s0 s) (c : Ch) : (s.chan c).Sound P :=
  ⟨h.inv.line_ok c, h.inv.apm_ok c, h.inv.ready h.active c⟩

theorem Streams.noise (h : Streams P s0 s) : s.noise.Ok := ⟨h.inv.noise_tab, h.inv.noise_pos⟩

/-- Sound channels, a noise source in order and oscillators in order make up a state of the invariant. -/
theorem Streams.mk_of_parts (h : Streams P s0 s) {t : State} (hc : ∀ c, (t.chan c).Sound P)
    (hn : t.noise.Ok) (hl : ∀ r, (t.lfo r).count < lfoRenorm) (hm : t.mode = s.mode)
    (he : t.eng = s.eng) (hp : t.port = s.port) : Streams P s0 t where
  inv :=
    { line_ok := fun c => (hc c).line_ok
      apm_ok := fun c => (hc c).apm_ok
      noise_tab := hn.tab
      noise_pos := hn.npos
      lfo_count := hl
      factor_ge := he ▸ h.inv.factor_ge
      factor_le := he ▸ h.inv.factor_le
      ready := fun _ c => (hc c).ready
      port_ok := hp ▸ h.inv.port_ok }
  active := hm.trans h.active
  eng := he.trans h.eng
  port := hp.trans h.port

/-- The channels and the noise source replaced. -/
theorem Streams.withParts (h : Streams P s0 s) {l r : Chan} {n : Noise} (hl : l.Sound P) (hr : r.Sound P)
    (hn : n.Ok) : Streams P s0 { s with left := l, right := r, noise := n } :=
  h.mk_of_parts (fun c => by cases c <;> assumption) hn
    (fun q => by cases q; exacts [h.inv.lfo_count .lfo1, h.inv.lfo_count .lfo2]) rfl rfl rfl

/-- A stage that both channels run (rule R14). -/
theorem bothChans_succeeds (h : Streams P s0 s) {f : Ch → Chan → Word → Except Fault (Word × Chan)}
    (hf : ∀ c x v, Chan.Sound P x → Succeeds (f c x v) fun r => r.2.Sound P) (x : Pair) :
    Succeeds (bothChans f s x) fun r => Streams P s0 r.2 := by
  refine (hf .left s.left x.l (h.chan .left)).bind fun l hl => ?_
  refine (hf .right s.right x.r (h.chan .right)).bind fun r hr => ?_
  exact .ok (h.withParts hl hr h.noise)

/-! ## The stages of the graph -/

theorem erStep_succeeds (h : Streams P s0 s) (x : Pair) :
    Succeeds (erStep P s x) fun r => Streams P s0 r.2 := by
  refine (bothChans_succeeds h (fun _ _ v hx => .ok (erShape_sound hx v)) x).bind fun a ha => ?_
  refine (erTaps_succeeds (ha.chan .left)).bind fun tl _ => ?_
  refine (erTaps_succeeds (ha.chan .right)).bind fun tr _ => ?_
  refine (bothChans_succeeds ha (fun _ _ v hx => erStore_succeeds hx v) _).bind fun b hb => ?_
  refine (bothChans_succeeds hb (fun _ _ v hx => erCross_succeeds hx v) _).bind fun r hr => ?_
  exact .ok hr

theorem modStep_streams (h : Streams P s0 s) : Streams P s0 (modStep s).2 :=
  h.mk_of_parts h.chan h.noise
    (fun r => by
      cases r
      exacts [lfoStep_count s.lfo1 (h.inv.lfo_count .lfo1), lfoStep_count s.lfo2 (h.inv.lfo_count .lfo2)])
    rfl rfl rfl

theorem diffuseStage_succeeds (h : Streams P s0 s) (p : Pair) :
    Succeeds (diffuseStage P s p) fun r => Streams P s0 r.2 := by
  refine (diffuse_succeeds (h.chan .left) h.noise p.l).bind fun l hl => ?_
  refine (diffuse_succeeds (h.chan .right) hl.2 p.r).bind fun r hr => ?_
  exact .ok (h.withParts hl.1 hr.1 hr.2)

theorem crossRead_succeeds {x : Chan} (h : x.Sound P) :
    Succeeds (lineRead (lineCap P (.dl .crossDelay)) x.crossDelay 0) fun _ => True :=
  ⟨_, lineRead_zero (h.line_ok (.dl .crossDelay)) (h.line_ne_zero (.dl .crossDelay) rfl), trivial⟩

theorem crossStage_succeeds (h : Streams P s0 s) (p : Pair) :
    Succeeds (crossStage P s p) fun r => Streams P s0 r.2 := by
  refine (crossRead_succeeds (h.chan .right)).bind fun cl _ => ?_
  refine (crossRead_succeeds (h.chan .left)).bind fun cr _ => ?_
  refine (bothChans_succeeds h (fun _ _ v hx => crossStore_succeeds hx v) p).bind fun w hw => ?_
  refine (bothChans_succeeds hw (fun _ _ v hx => .ok (crossFilter_sound hx v)) _).bind fun f hf => ?_
  exact .ok hf

theorem lateStep_succeeds (h : Streams P s0 s) (u : Pair) :
    Succeeds (lateStep P s u) fun r => Streams P s0 r.2 := by
  refine (bothChans_succeeds (modStep_streams h) (fun _ _ v hx => .ok (dcStage_sound hx v)) u).bind
    fun p hp => ?_
  refine (diffuseStage_succeeds hp _).bind fun d hd => ?_
  refine (crossStage_succeeds hd _).bind fun q hq => ?_
  refine (bothChans_succeeds hq (fun _ _ v hx => .ok (bassStage_sound hx _ v)) _).bind fun b hb => ?_
  refine (bothChans_succeeds hb (fun c _ v hx => dampStage_succeeds hx (sgn c _) v) _).bind fun g hg => ?_
  refine (bothChans_succeeds hg (fun c _ v hx => cbassStage_succeeds hx (sgn c _) v) _).bind
    fun k hk => ?_
  refine (bothChans_succeeds hk (fun _ _ v hx => combStage_succeeds hx v) _).bind fun z hz => ?_
  exact bothChans_succeeds hz (fun _ _ v hx => outStage_succeeds hx v) _

theorem subStep_succeeds (h : Streams P s0 s) {j : Nat} (hf : 2 ≤ s0.eng.factor) (hj : j < s0.eng.factor)
    (u : Pair) : Succeeds (subStep P s u j) fun r => Streams P s0 r.2 := by
  unfold subStep
  rw [h.eng]
  refine (bothChans_succeeds h (fun _ _ v hx => upStage_succeeds hx hf hj v) u).bind fun w hw => ?_
  refine (lateStep_succeeds hw _).bind fun z hz => ?_
  exact bothChans_succeeds hz (fun _ _ v hx => downStage_succeeds hx hf v) _

/-- The last `n` of the `F` sub-steps: where none is left, one has been made (rule R382). -/
theorem subSteps_succeeds (hf : 2 ≤ s0.eng.factor) (u : Pair) {n j : Nat} {last : Option Pair} {s : State}
    (h : Streams P s0 s) (hj : j + n = s0.eng.factor) (hl : n = 0 → last.isSome = true) :
    Succeeds (subSteps P u n j last s) fun r => Streams P s0 r.2 := by
  induction n generalizing j last s with
  | zero =>
    obtain ⟨y, rfl⟩ := Option.isSome_iff_exists.mp (hl rfl)
    exact .ok h
  | succ n ih =>
    refine (subStep_succeeds h hf (by omega) u).bind fun r hr => ?_
    exact ih hr (by omega) (fun _ => rfl)

theorem lateOsStep_succeeds (h : Streams P s0 s) (u : Pair) :
    Succeeds (lateOsStep P s u) fun r => Streams P s0 r.2 := by
  have hge : 1 ≤ s0.eng.factor := h.eng ▸ h.inv.factor_ge
  unfold lateOsStep
  rw [h.eng]
  split
  · exact lateStep_succeeds h u
  · exact subSteps_succeeds (by omega) u h (by omega) (by omega)

theorem engineSample_succeeds (h : Streams P s0 s) (x : Pair) :
    Succeeds (engineSample P s x) fun r => Streams P s0 r.2 := by
  refine (bothChans_succeeds h (fun _ _ v hx => preWetStage_succeeds hx v) x).bind fun w hw => ?_
  refine (bothChans_succeeds hw (fun _ _ v hx => preDryStage_succeeds hx v) x).bind fun d hd => ?_
  refine (erStep_succeeds hd _).bind fun r hr => ?_
  refine (lateOsStep_succeeds hr _).bind fun l hl => ?_
  exact .ok hl

/-! ## The mode dispatch (rule R392) -/

/-- Outside ACTIVE a sample changes nothing; in ACTIVE it is an engine sample. -/
theorem sampleStep_succeeds (h : Inv P s) (x : Pair) :
    Succeeds (sampleStep P s x) fun r => Inv P r.2 ∧ r.2.port = s.port := by
  unfold sampleStep
  split
  case isTrue ha =>
    have ha' : s.mode = .active := by simpa [State.isActive] using ha
    exact (engineSample_succeeds (.refl h ha') x).mono fun _ hr => ⟨hr.inv, hr.port⟩
  case isFalse => exact .ok ⟨h, rfl⟩

theorem sampleSteps_succeeds (h : Inv P s) (xs : List Pair) :
    Succeeds (sampleSteps P xs s) fun r => Inv P r.2 ∧ r.2.port = s.port := by
  induction xs generalizing s with
  | nil => exact .ok ⟨h, rfl⟩
  | cons x xs ih =>
    refine (sampleStep_succeeds h x).bind fun y hy => ?_
    refine (ih hy.1).bind fun ys hys => ?_
    exact .ok ⟨hys.1, hys.2.trans hy.2⟩

end

end Sys2Proof.Machine

/-! # A configuration keeps the invariant (rules R61, R403, R406 to R409 and R421) -/

namespace Sys2Proof.Machine

open Sys2Proof.Config (Params TopoCh unspecified32)

/-! ## In order but for the positions

The deriver may leave a position beyond its new length; clearing or reducing mends that. -/

/-- A line in order but for its cursor. -/
structure Line.Fits (cap : Nat) (d : Line) : Prop where
  size_le : d.size ≤ cap
  buf_wf : Memory.wf d.buf = true
  buf_lt : ∀ e ∈ d.buf, e.1 < cap

/-- A modulated all-pass in order but for its two positions. -/
structure Apm.Fits (cap : Nat) (a : Apm) : Prop where
  window : (a.size = 0 ∧ a.msize = 0) ∨ (1 ≤ a.size ∧ 1 ≤ a.msize ∧ a.size + a.msize ≤ cap)
  buf_wf : Memory.wf a.buf = true
  buf_lt : ∀ e ∈ a.buf, e.1 < cap

section
variable {cap : Nat} {d : Line} {a : Apm}

theorem Line.Ok.fits (h : d.Ok cap) : d.Fits cap := ⟨h.size_le, h.buf_wf, h.buf_lt⟩

theorem Apm.Ok.fits (h : a.Ok cap) : a.Fits cap :=
  ⟨h.window.imp_right fun ⟨h1, h2, h3, _⟩ => ⟨h1, h2, h3⟩, h.buf_wf, h.buf_lt⟩

theorem Line.Fits.clear_ok (h : d.Fits cap) : d.clear.Ok cap where
  size_le := h.size_le
  cursor_lt := d.size.eq_zero_or_pos.symm.imp_right fun h0 => ⟨rfl, h0⟩
  buf_wf := Memory.wf_nil
  buf_lt := nofun

theorem Line.Fits.reduce_ok (h : d.Fits cap) : d.reduce.Ok cap where
  size_le := h.size_le
  cursor_lt := by
    by_cases h0 : d.size = 0
    · exact .inr ⟨if_pos h0, h0⟩
    · exact .inl (reduce_lt _ h0)
  buf_wf := h.buf_wf
  buf_lt := h.buf_lt

theorem Apm.Fits.clear_ok (h : a.Fits cap) : a.clear.Ok cap where
  window := h.window.imp_right fun ⟨h1, h2, h3⟩ =>
    ⟨h1, h2, h3, Nat.add_pos_left h1 _, Nat.add_pos_left h1 _⟩
  buf_wf := Memory.wf_nil
  buf_lt := nofun

theorem Apm.Fits.reduce_ok (h : a.Fits cap) : a.reduce.Ok cap where
  window := h.window.imp_right fun ⟨h1, h2, h3⟩ =>
    have hne : a.size + a.msize ≠ 0 := by omega
    ⟨h1, h2, h3, reduce_lt _ hne, reduce_lt _ hne⟩
  buf_wf := h.buf_wf
  buf_lt := h.buf_lt

end

/-- The invariant but for the positions and for what ACTIVE asks of the registers. -/
structure State.Fits (P : Params) (s : State) : Prop where
  line : ∀ c r, ((s.chan c).line r).Fits (lineCap P r)
  apm : ∀ c r, ((s.chan c).apm r).Fits (apmCap P r)
  noise : s.noise.Ok
  lfo_count : ∀ r, (s.lfo r).count < lfoRenorm
  factor_ge : 1 ≤ s.eng.factor
  factor_le : s.eng.factor ≤ osMax
  port_ok : ∀ q ∈ s.port, ∀ p, decode q.origin q.record ≠ .ok (.derive p)

theorem Inv.fits {P : Params} {s : State} (h : Inv P s) : s.Fits P where
  line c r := (h.line_ok c r).fits
  apm c r := (h.apm_ok c r).fits
  noise := ⟨h.noise_tab, h.noise_pos⟩
  lfo_count := h.lfo_count
  factor_ge := h.factor_ge
  factor_le := h.factor_le
  port_ok := h.port_ok

@[simp] theorem State.chan_clearStream (s : State) (c : Ch) : s.clearStream.chan c = (s.chan c).clear := by
  cases c <;> rfl

@[simp] theorem State.chan_reduceCursors (s : State) (c : Ch) :
    s.reduceCursors.chan c = (s.chan c).reduce := by cases c <;> rfl

theorem Chan.Ready.clear {P : Params} {x : Chan} (h : x.Ready P) : x.clear.Ready P :=
  h.of_sizes (fun r => by rw [Chan.clear_line]; rfl) (fun r => by rw [Chan.clear_apm]; exact ⟨rfl, rfl⟩)
    rfl rfl

theorem Chan.Ready.reduce {P : Params} {x : Chan} (h : x.Ready P) : x.reduce.Ready P :=
  h.of_sizes (fun r => by rw [Chan.reduce_line]; rfl) (fun r => by rw [Chan.reduce_apm]; exact ⟨rfl, rfl⟩)
    rfl rfl

/-- `PRESERVE = 0`: clearing the stream state puts every position in order. -/
theorem State.Fits.inv_clearStream {P : Params} {s : State} (h : s.Fits P) {m : Mode}
    (hr : m = .active → ∀ c, (s.chan c).Ready P) : Inv P { s.clearStream with mode := m } where
  line_ok c r := by
    show Line.Ok _ ((s.clearStream.chan c).line r)
    rw [State.chan_clearStream, Chan.clear_line]
    exact (h.line c r).clear_ok
  apm_ok c r := by
    show Apm.Ok _ ((s.clearStream.chan c).apm r)
    rw [State.chan_clearStream, Chan.clear_apm]
    exact (h.apm c r).clear_ok
  noise_tab := h.noise.tab
  noise_pos := Nat.two_pow_pos 14
  lfo_count r := by cases r <;> exact Nat.two_pow_pos 10
  factor_ge := h.factor_ge
  factor_le := h.factor_le
  ready hm c := by
    show Chan.Ready P (s.clearStream.chan c)
    rw [State.chan_clearStream]
    exact (hr hm c).clear
  port_ok := h.port_ok

/-- `PRESERVE = 1`: reducing the cursors puts every position in order. -/
theorem State.Fits.inv_reduceCursors {P : Params} {s : State} (h : s.Fits P) {m : Mode}
    (hr : m = .active → ∀ c, (s.chan c).Ready P) : Inv P { s.reduceCursors with mode := m } where
  line_ok c r := by
    show Line.Ok _ ((s.reduceCursors.chan c).line r)
    rw [State.chan_reduceCursors, Chan.reduce_line]
    exact (h.line c r).reduce_ok
  apm_ok c r := by
    show Apm.Ok _ ((s.reduceCursors.chan c).apm r)
    rw [State.chan_reduceCursors, Chan.reduce_apm]
    exact (h.apm c r).reduce_ok
  noise_tab := h.noise.tab
  noise_pos := h.noise.npos
  lfo_count r := by cases r; exacts [h.lfo_count .lfo1, h.lfo_count .lfo2]
  factor_ge := h.factor_ge
  factor_le := h.factor_le
  ready hm c := by
    show Chan.Ready P (s.reduceCursors.chan c)
    rw [State.chan_reduceCursors]
    exact (hr hm c).reduce
  port_ok := h.port_ok

/-! ## What the deriver does to a channel's lengths -/

/-- `y` is `x` with derived lengths: every length within its capacity, the lengths that the graph asks to be
at least 1 so, every tap within the tap line, and no buffer written. -/
structure Chan.Derived (P : Params) (x y : Chan) : Prop where
  line : ∀ r, ∃ n, y.line r = (x.line r).withSize n ∧ r.readAtZero.toNat ≤ n ∧ n ≤ lineCap P r
  apm_buf : ∀ r, (y.apm r).buf = (x.apm r).buf
  apm_window : ∀ r, 1 ≤ (y.apm r).size ∧ 1 ≤ (y.apm r).msize ∧
    (y.apm r).size + (y.apm r).msize ≤ apmCap P r
  tap_line : y.erTap.size = P.capErTap
  tap_off : ∀ k : Fin 18, k.val < y.nTaps.val → 1 ≤ y.taps[k].off ∧ y.taps[k].off < P.capErTap

section
variable {P : Params} {x y : Chan}

theorem Chan.Derived.ready (h : x.Derived P y) : y.Ready P where
  line_size r hr := by
    obtain ⟨n, hy, hn, _⟩ := h.line r
    rw [hr] at hn
    rw [hy]
    exact hn
  apm_size r := ⟨(h.apm_window r).1, (h.apm_window r).2.1⟩
  tap_line := h.tap_line
  tap_off := h.tap_off

theorem Chan.Derived.line_fits (h : x.Derived P y) {r : LineRole} (hx : (x.line r).Fits (lineCap P r)) :
    (y.line r).Fits (lineCap P r) := by
  obtain ⟨n, hy, _, hn⟩ := h.line r
  rw [hy]
  exact ⟨hn, hx.buf_wf, hx.buf_lt⟩

theorem Chan.Derived.apm_fits (h : x.Derived P y) {r : ApmRole} (hx : (x.apm r).Fits (apmCap P r)) :
    (y.apm r).Fits (apmCap P r) where
  window := .inr (h.apm_window r)
  buf_wf := h.apm_buf r ▸ hx.buf_wf
  buf_lt := h.apm_buf r ▸ hx.buf_lt

theorem preWetSize_le (P : Params) (p : ParamVec) : preWetSize P p ≤ P.capPre := by
  unfold preWetSize
  split
  · exact (tos_bounds _ _ (Nat.zero_le _)).2
  · exact Nat.zero_le _

theorem preDrySize_le (P : Params) (p : ParamVec) : preDrySize P p ≤ P.capPre := by
  unfold preDrySize
  split
  · exact Nat.zero_le _
  · exact (tos_bounds _ _ (Nat.zero_le _)).2

/-- The length the deriver gives each line (rules R406 and R408 to R410). -/
theorem deriveChan_line (hP : paramsOk P = true) (p : ParamVec) (fsi : DWord) (t : TopoCh) (x : Chan)
    (r : LineRole) :
    ∃ n, (deriveChan P p fsi t x).line r = (x.line r).withSize n ∧
      r.readAtZero.toNat ≤ n ∧ n ≤ lineCap P r := by
  have hb := (lineCap_bounds hP r).1
  cases r with
  | dl r =>
    cases r with
    | preWet => exact ⟨_, rfl, Nat.zero_le _, preWetSize_le P p⟩
    | preDry => exact ⟨_, rfl, Nat.zero_le _, preDrySize_le P p⟩
    | erTap => exact ⟨_, rfl, Nat.zero_le _, Nat.le_refl _⟩
    | erXdelay => exact ⟨_, rfl, tos_bounds _ _ hb⟩
    | crossDelay => exact ⟨_, rfl, tos_bounds _ _ hb⟩
    | dampDelay => exact ⟨_, rfl, tos_bounds _ _ hb⟩
    | cbassD1 => exact ⟨_, rfl, tos_bounds _ _ hb⟩
    | cbassD2 => exact ⟨_, rfl, tos_bounds _ _ hb⟩
    | outDelay => exact ⟨_, rfl, tos_bounds _ _ hb⟩
  | erXap => exact ⟨_, rfl, tos_bounds _ _ hb⟩
  | cbassAp2S0 => exact ⟨_, rfl, tos_bounds _ _ hb⟩
  | cbassAp2S1 => exact ⟨_, rfl, tos_bounds _ _ hb⟩
  | cbassAp3S0 => exact ⟨_, rfl, tos_bounds _ _ hb⟩
  | cbassAp3S2 => exact ⟨_, rfl, tos_bounds _ _ hb⟩
  | comb => exact ⟨_, rfl, tos_bounds _ _ hb⟩

/-- Each modulated all-pass is given its registers by SET_APM with its own capacity (rule R407). -/
theorem deriveChan_apm (P : Params) (p : ParamVec) (fsi : DWord) (t : TopoCh) (x : Chan) (r : ApmRole) :
    ∃ ts tm g, (deriveChan P p fsi t x).apm r =
      setApmRegs P p fsi ts tm g (apmCap P r) (x.apm r) := by
  cases r with
  | diff i => exact ⟨t.diffS[i], t.diffModS[i], P.topo.diffG[i], by simp [Chan.apm, deriveChan, apmCap]⟩
  | dampAp1 => exact ⟨_, _, _, rfl⟩
  | dampAp2 => exact ⟨_, _, _, rfl⟩
  | cbassAp3S1 => exact ⟨_, _, _, rfl⟩

/-- A tap of `TOPO` lies between 1 and the tap line's last offset (rule R409). -/
theorem deriveTap_off (hP : paramsOk P = true) (p : ParamVec) {t : TopoCh} {k : Nat}
    (hk : k < t.erTaps.length) :
    1 ≤ (deriveTap P p t k).off ∧ (deriveTap P p t k).off < P.capErTap := by
  have hb : 2 ≤ P.capErTap := (lineCap_bounds hP (.dl .erTap)).1
  unfold deriveTap
  rw [List.getElem?_eq_getElem hk]
  have := tos_bounds (mul64 t.erTaps[k].1 (widen p.ereffactor)) (widen p.rate)
    (show 1 ≤ P.capErTap - 1 by omega)
  simp only
  omega

theorem deriveChan_derived (hP : paramsOk P = true) (p : ParamVec) (fsi : DWord) (t : TopoCh) (x : Chan) :
    x.Derived P (deriveChan P p fsi t x) where
  line := deriveChan_line hP p fsi t x
  apm_buf r := by
    obtain ⟨ts, tm, g, hr⟩ := deriveChan_apm P p fsi t x r
    rw [hr]
    rfl
  apm_window r := by
    obtain ⟨ts, tm, g, hr⟩ := deriveChan_apm P p fsi t x r
    rw [hr]
    exact setApmRegs_window P p fsi ts tm g (apmCap_bounds hP r).1 _
  tap_line := rfl
  tap_off k hk := by
    have hk' : k.val < t.erTaps.length := Nat.lt_of_lt_of_le hk (Nat.min_le_left _ _)
    simpa [deriveChan] using deriveTap_off hP p hk'

/-- A vector out of range leaves the structural registers to the formulas (rule R403). -/
theorem Chan.Derived.unspecified (h : x.Derived P y) (p : ParamVec) (c : Ch) :
    x.Derived P (unspecifiedChan p c y) := by
  have hl : ∀ r, (unspecifiedChan p c y).line r = y.line r := fun _ => rfl
  have ha : ∀ r, ∃ u, (unspecifiedChan p c y).apm r = (y.apm r).unspecified u := fun r => by
    cases r with
    | diff i => exact ⟨unspecified32 p (apmId c (.diff i)) 0, by simp [Chan.apm, unspecifiedChan]⟩
    | dampAp1 => exact ⟨_, rfl⟩
    | dampAp2 => exact ⟨_, rfl⟩
    | cbassAp3S1 => exact ⟨_, rfl⟩
  refine ⟨fun r => by rw [hl]; exact h.line r, fun r => ?_, fun r => ?_, h.tap_line, fun k hk => ?_⟩
  · obtain ⟨u, hu⟩ := ha r
    rw [hu]
    exact h.apm_buf r
  · obtain ⟨u, hu⟩ := ha r
    rw [hu]
    exact h.apm_window r
  · simpa [unspecifiedChan] using h.tap_off k hk

end

/-! ## DERIVE -/

section
variable {P : Params} {s : State}

theorem derive_derived (hP : paramsOk P = true) (p : ParamVec) (s : State) (c : Ch) :
    (s.chan c).Derived P ((derive P p s).chan c) := by
  have hd : (s.chan c).Derived P ((deriveFormulas P p s).chan c) := by
    cases c <;> exact deriveChan_derived hP p _ _ _
  unfold derive
  split
  · exact hd
  · cases c
    · exact hd.unspecified p .left
    · exact hd.unspecified p .right

@[simp] theorem derive_noise (P : Params) (p : ParamVec) (s : State) : (derive P p s).noise = s.noise := by
  unfold derive; split <;> rfl
@[simp] theorem derive_port (P : Params) (p : ParamVec) (s : State) : (derive P p s).port = s.port := by
  unfold derive; split <;> rfl
@[simp] theorem derive_lfo_count (P : Params) (p : ParamVec) (s : State) (r : LfoRef) :
    ((derive P p s).lfo r).count = (s.lfo r).count := by
  unfold derive; split <;> cases r <;> rfl
@[simp] theorem derive_factor (P : Params) (p : ParamVec) (s : State) :
    (derive P p s).eng.factor = factorOf p.oversample := by
  unfold derive; split <;> rfl

/-- DERIVE keeps everything in order but for the positions. -/
theorem State.Fits.derive (h : s.Fits P) (hP : paramsOk P = true) (p : ParamVec) :
    (Sys2Proof.Machine.derive P p s).Fits P where
  line c r := (derive_derived hP p s c).line_fits (h.line c r)
  apm c r := (derive_derived hP p s c).apm_fits (h.apm c r)
  noise := by rw [derive_noise]; exact h.noise
  lfo_count r := by rw [derive_lfo_count]; exact h.lfo_count r
  factor_ge := by rw [derive_factor]; exact (factorOf_bounds _).1
  factor_le := by rw [derive_factor]; exact (factorOf_bounds _).2
  port_ok := by rw [derive_port]; exact h.port_ok

theorem deriveChan_clear (P : Params) (p : ParamVec) (fsi : DWord) (t : TopoCh) (x : Chan) :
    deriveChan P p fsi t x.clear = (deriveChan P p fsi t x).clear := by
  have hd : (deriveChan P p fsi t x.clear).diff = (deriveChan P p fsi t x).clear.diff := by
    ext i hi : 1
    simp [deriveChan, Chan.clear, setApmRegs, Apm.clear]
  unfold deriveChan Chan.clear at hd ⊢
  simp only at hd ⊢
  rw [hd]
  rfl

theorem unspecifiedChan_clear (p : ParamVec) (c : Ch) (x : Chan) :
    unspecifiedChan p c x.clear = (unspecifiedChan p c x).clear := by
  have hd : (unspecifiedChan p c x.clear).diff = (unspecifiedChan p c x).clear.diff := by
    ext i hi : 1
    simp [unspecifiedChan, Chan.clear, Apm.unspecified, Apm.clear]
  unfold unspecifiedChan Chan.clear at hd ⊢
  simp only at hd ⊢
  rw [hd]
  rfl

/-- DERIVE reads and writes no stream state, so it does not matter whether that is cleared before or after
(rules R400 and R421). -/
theorem derive_clearStream (P : Params) (p : ParamVec) (s : State) :
    derive P p s.clearStream = (derive P p s).clearStream := by
  have hf : deriveFormulas P p s.clearStream = (deriveFormulas P p s).clearStream := by
    simp only [deriveFormulas, State.clearStream, deriveChan_clear]
    rfl
  unfold derive
  simp only [hf]
  split
  · rfl
  · simp only [unspecifiedRegs, State.clearStream, unspecifiedChan_clear]
    rfl

/-! ## CONFIGURE -/

/-- The state with the registers a configuration gives, before its stream state is cleared or its cursors are
reduced. -/
def configured (P : Params) (p : Option ParamVec) (s : State) : State :=
  match p with
  | some p => derive P p s
  | none => s

/-- CONFIGURE is: the registers, then the stream-state policy, then the mode (rule R421). -/
theorem configure_eq (P : Params) (keep : Bool) (m : Mode) (p : Option ParamVec) (s : State) :
    configure P keep m p s =
      { (if keep then (configured P p s).reduceCursors else (configured P p s).clearStream) with
        mode := m } := by
  cases keep with
  | true => cases p <;> rfl
  | false =>
    cases p with
    | none => rfl
    | some p =>
      show ({ derive P p s.clearStream with mode := m } : State) = _
      rw [derive_clearStream]
      rfl

/-- A configuration keeps the invariant, if ACTIVE is entered with parameters only. -/
theorem Inv.configure (h : Inv P s) (hP : paramsOk P = true) (keep : Bool) {m : Mode}
    {p : Option ParamVec} (hm : m = .active → p.isSome = true) :
    Inv P (Sys2Proof.Machine.configure P keep m p s) := by
  have hfits : (configured P p s).Fits P := by
    cases p
    exacts [h.fits, h.fits.derive hP _]
  have hready : m = .active → ∀ c, ((configured P p s).chan c).Ready P := fun ha c => by
    obtain ⟨p, rfl⟩ := Option.isSome_iff_exists.mp (hm ha)
    exact (derive_derived hP p s c).ready
  rw [configure_eq]
  cases keep
  exacts [hfits.inv_clearStream hready, hfits.inv_reduceCursors hready]

theorem configure_port (P : Params) (keep : Bool) (m : Mode) (p : Option ParamVec) (s : State) :
    (configure P keep m p s).port = s.port := by
  rw [configure_eq]
  cases keep <;> cases p <;> simp [configured]

end

end Sys2Proof.Machine

/-! # No sequence of the host's commands stops (rules R15, R16, R142 and R451) -/

namespace Sys2Proof.Machine

open Sys2Proof.Config (Params)

/-! ## The model's own fields -/

/-- The invariant says nothing of the answers, and of the waiting requests only that none is a DERIVE. -/
theorem Inv.with_model_fields {P : Params} {s : State} (h : Inv P s) {q : List Request}
    (hq : ∀ r ∈ q, ∀ p, decode r.origin r.record ≠ .ok (.derive p)) (ws os : List Word) :
    Inv P { s with port := q, reply := ws, opResult := os } where
  line_ok := h.line_ok
  apm_ok := h.apm_ok
  noise_tab := h.noise_tab
  noise_pos := h.noise_pos
  lfo_count := h.lfo_count
  factor_ge := h.factor_ge
  factor_le := h.factor_le
  ready := h.ready
  port_ok := hq

theorem Inv.accept {P : Params} {s : State} (h : Inv P s) (ws : List Word) : Inv P (s.accept ws) :=
  h.with_model_fields h.port_ok _ _

theorem Inv.reject {P : Params} {s : State} (h : Inv P s) (e : Status) : Inv P (s.reject e) :=
  h.with_model_fields h.port_ok _ _

/-- The first request taken from the queue. -/
theorem Inv.take_request {P : Params} {s : State} (h : Inv P s) {r : Request} {rest : List Request}
    (hp : s.port = r :: rest) : Inv P { s with port := rest } :=
  h.with_model_fields (fun q hq => h.port_ok q (hp ▸ List.mem_cons_of_mem r hq)) _ _

/-- The state after reset is in order, whatever requests wait that are no DERIVE (rules R60 and R61). -/
theorem inv_reset (P : Params) {q : List Request}
    (hq : ∀ r ∈ q, ∀ p, decode r.origin r.record ≠ .ok (.derive p)) :
    Inv P { State.reset with port := q } := by
  have hl : ∀ c r, (State.reset.chan c).line r = .reset := fun c r => by
    cases c <;> rcases r with ⟨_ | _ | _ | _ | _ | _ | _ | _ | _⟩ | _ | _ | _ | _ | _ | _ <;> rfl
  have ha : ∀ c r, (State.reset.chan c).apm r = .reset := fun c r => by
    cases c <;> cases r <;> simp [State.reset, State.chan, Chan.reset, Chan.apm, Ap3m.reset]
  have h : Inv P State.reset :=
    { line_ok := fun c r => by
        rw [hl]
        exact ⟨Nat.zero_le _, .inr ⟨rfl, rfl⟩, Memory.wf_nil, nofun⟩
      apm_ok := fun c r => by
        rw [ha]
        exact ⟨.inl ⟨rfl, rfl⟩, Memory.wf_nil, nofun⟩
      noise_tab := rfl
      noise_pos := Nat.two_pow_pos 14
      lfo_count := fun r => by cases r <;> exact Nat.two_pow_pos 10
      factor_ge := Nat.le_refl 1
      factor_le := (by decide : 1 ≤ 4)
      ready := nofun
      port_ok := nofun }
  exact h.with_model_fields hq _ _

/-! ## The host's commands -/

/-- What a record on the command port spells is an external command (rules R140 and R142). -/
theorem origin_of_decodePayload {op : Nat} (hop : 1 ≤ op ∧ op ≤ 8) {keep : Bool} {imm : BitVec 16}
    {ws : List Word} {i : Instr} (h : decodePayload op keep imm ws = .ok i) : i.origin = .host := by
  have ho : op = 1 ∨ op = 2 ∨ op = 3 ∨ op = 4 ∨ op = 5 ∨ op = 6 ∨ op = 7 ∨ op = 8 := by omega
  rcases ho with rfl | rfl | rfl | rfl | rfl | rfl | rfl | rfl
  · rw [decodePayload_reset] at h
    split at h <;> cases h
    rfl
  · rw [decodePayload_cfgBypass] at h
    split at h <;> cases h
    rfl
  · rw [decodePayload_cfgPreset] at h
    split at h <;> cases h
    rfl
  · rw [decodePayload_cfgAdvanced] at h
    split at h <;> cases h
    rfl
  · cases ws with
    | nil => cases h
    | cons l v =>
      rw [decodePayload_cfgVector] at h
      split at h <;> cases h
      rfl
  · rw [decodePayload_processSample] at h
    split at h <;> cases h
    rfl
  · cases ws with
    | nil => cases h
    | cons n ws =>
      rw [decodePayload_processBlock] at h
      split at h
      · split at h <;> cases h
        rfl
      · cases h
  · rw [decodePayload_queryValid] at h
    split at h <;> cases h
    rfl

theorem origin_of_decode_host {r : Record} {i : Instr} (h : decode .host r = .ok i) :
    i.origin = .host := by
  change decodeHost r = .ok i at h
  unfold decodeHost at h
  simp only at h
  split at h
  · cases h
  split at h
  · cases h
  split at h
  · cases h
  split at h
  · cases h
  exact origin_of_decodePayload (by omega) h

/-- A command completes: the next state meets the invariant, and its waiting requests are those of `s`. -/
def Completes (s : State) (o : Host.Outcome State Fault Refusal) : Prop :=
  ∃ t, o = .next t ∧ Inv params t ∧ t.port = s.port

theorem Completes.of_accept {s t : State} (h : Inv params t) (hp : t.port = s.port) (ws : List Word) :
    Completes s (.next (t.accept ws)) := ⟨_, rfl, h.accept ws, hp⟩

theorem Completes.of_reject {s : State} (h : Inv params s) (e : Status) :
    Completes s (.next (s.reject e)) := ⟨_, rfl, h.reject e, rfl⟩

theorem Completes.of_succeeds {s : State} {r : Except Fault State}
    (h : Succeeds r fun t => Inv params t ∧ t.port = s.port) : Completes s (outcomeOf r) := by
  obtain ⟨t, rfl, ht⟩ := h
  exact ⟨t, rfl, ht⟩

section
variable {s : State}

theorem completes_reset (h : Inv params s) : Completes s (execReset s) :=
  .of_accept (inv_reset params h.port_ok) rfl _

/-- A configuration that is accepted (rule R421). -/
theorem completes_configure (h : Inv params s) (keep : Bool) {m : Mode} {p : Option ParamVec}
    (hm : m = .active → p.isSome = true) :
    Completes s (.next ((configure params keep m p s).accept [])) :=
  .of_accept (h.configure params_ok keep hm) (configure_port ..) _

theorem completes_cfgPreset (h : Inv params s) (keep : Bool) (id : BitVec 16) :
    Completes s (execCfgPreset keep id s) := by
  unfold execCfgPreset cfgPreset
  split
  · exact completes_configure h keep (fun _ => rfl)
  · exact .of_reject h _

theorem completes_cfgVector (h : Inv params s) (keep : Bool) (v : List Word) :
    Completes s (execCfgVector keep v s) := by
  unfold execCfgVector cfgVector
  split
  · exact completes_configure h keep nofun
  · exact completes_configure h keep (fun _ => rfl)
  · exact .of_reject h _

theorem completes_processSample (h : Inv params s) (a b : Word) :
    Completes s (execProcessSample a b s) :=
  .of_succeeds ((sampleStep_succeeds h ⟨a, b⟩).bind fun _ hr => .ok ⟨hr.1.accept _, hr.2⟩)

theorem completes_processBlock (h : Inv params s) (xs : List Pair) :
    Completes s (execProcessBlock xs s) :=
  .of_succeeds ((sampleSteps_succeeds h xs).bind fun _ hr => .ok ⟨hr.1.accept _, hr.2⟩)

/-- Every external command completes in every state of the invariant (rule R16). -/
theorem completes_exec (h : Inv params s) {i : Instr} (hi : i.origin = .host) : Completes s (exec i s) := by
  cases i with
  | reset => exact completes_reset h
  | cfgBypass keep => exact completes_configure h keep nofun
  | cfgPreset keep id => exact completes_cfgPreset h keep id
  | cfgAdvanced keep p => exact completes_configure h keep (fun _ => rfl)
  | cfgVector keep v => exact completes_cfgVector h keep v
  | processSample a b => exact completes_processSample h a b
  | processBlock xs => exact completes_processBlock h xs
  | queryValid => exact .of_accept h rfl _
  | _ => cases hi

/-! ## Steps and runs -/

/-- A step that takes a request of the host's completes: the command runs, or is rejected. -/
theorem completes_step (h : Inv params s) {r : Record} {rest : List Request}
    (hp : s.port = ⟨.host, r⟩ :: rest) : Completes { s with port := rest } (step s) := by
  have h' := h.take_request hp
  unfold step
  rw [hp]
  simp only
  split
  case h_1 i hi => exact completes_exec h' (origin_of_decode_host hi)
  case h_2 e _ => exact .of_reject h' e

/-- The invariant, with only the host's requests waiting. -/
def HostOnly (s : State) : Prop := Inv params s ∧ ∀ q ∈ s.port, q.origin = Origin.host

theorem step_hostOnly (h : HostOnly s) : ∃ t, step s = .next t ∧ HostOnly t := by
  obtain ⟨hinv, hhost⟩ := h
  match hp : s.port with
  | [] => exact ⟨s, by unfold step; rw [hp], hinv, hhost⟩
  | ⟨o, r⟩ :: rest =>
    rw [hp, List.forall_mem_cons] at hhost
    obtain ⟨rfl, hrest⟩ := hhost
    obtain ⟨t, ht, hinv', hport⟩ := completes_step hinv hp
    exact ⟨t, ht, hinv', hport ▸ hrest⟩

end

/-- A property that lets every step answer a next state and holds of it again holds along every run. -/
theorem run_of_step {M : Host.Core} {I : M.State → Prop}
    (hstep : ∀ s, I s → ∃ t, M.step s = .next t ∧ I t) (n : Nat) {s : M.State} (h : I s) :
    ∃ t, M.run n s = .next t ∧ I t := by
  induction n generalizing s with
  | zero => exact ⟨s, rfl, h⟩
  | succ n ih =>
    obtain ⟨s', hs, h'⟩ := hstep s h
    unfold Host.Core.run
    rw [hs]
    exact ih h'

/-- Settles O9: every external command completes in every state of the invariant (`completes_exec`), every
other record of the host's is rejected, and each leaves the invariant and the host's requests alone. -/
theorem hostRunsNeverStop : Obligations.HostRunsNeverStop := by
  intro s n hinv hhost
  obtain ⟨t, ht, hinv', _⟩ :=
    run_of_step (M := core) (I := HostOnly) (fun _ h => step_hostOnly h) n ⟨hinv, hhost⟩
  exact ⟨t, ht, hinv'⟩

end Sys2Proof.Machine

/-! # Where an internal operation stops (rules R15 and R455) -/

namespace Sys2Proof.Machine

open Sys2Proof.Config (Params)

/-! ## Computations that stop -/

@[simp] theorem bind_error {α β : Type} (e : Fault) (f : α → Except Fault β) :
    ((Except.error e : Except Fault α) >>= f) = .error e := rfl

/-- A meaning whose first part stops answers that fault. -/
theorem outcomeOf_bind_of_error {α : Type} {x : Except Fault α} {e : Fault} (h : x = .error e)
    (f : α → Except Fault State) : outcomeOf (x >>= f) = .fault e := by
  rw [h, bind_error, outcomeOf_error]

/-! ## The internal operations on an operand of their own type

What remains of each operation's meaning once its operand is known. -/

section
variable {c : Ch} (s : State)

theorem exec_dlWrite {d : Place} {r : LineRole} (h : lineOfPlace d = some (c, r)) (x : Word) :
    exec (.dlWrite d x) s = outcomeOf (do
      let d' ← lineWrite (lineCap params r) ((s.chan c).line r) x
      .ok ((s.setLine c r d').yields [])) := by
  show execDlWrite d x s = _
  simp only [execDlWrite, h, named_some, bind_ok]

theorem exec_dlRead {d : Place} {r : LineRole} (h : lineOfPlace d = some (c, r)) (k : Word) :
    exec (.dlRead d k) s = outcomeOf (do
      let y ← lineRead (lineCap params r) ((s.chan c).line r) k.toNat
      .ok (s.yields [y])) := by
  show execDlRead d k s = _
  simp only [execDlRead, h, named_some, bind_ok]

theorem exec_dlProcess {d : Place} {r : LineRole} (h : lineOfPlace d = some (c, r)) (x : Word) :
    exec (.dlProcess d x) s = outcomeOf (do
      let y ← lineProcess (lineCap params r) ((s.chan c).line r) x
      .ok ((s.setLine c r y.2).yields [y.1])) := by
  show execDlProcess d x s = _
  simp only [execDlProcess, h, named_some, bind_ok]

theorem exec_ap1Process {a : Place} {r : Ap1Role} (h : ap1OfPlace a = some (c, r)) (x : Word) :
    exec (.ap1Process a x) s = outcomeOf (do
      let y ← ap1Process (lineCap params r.line) ((s.chan c).ap1 r) x
      .ok ((s.setAp1 c r y.2).yields [y.1])) := by
  show execAp1Process a x s = _
  simp only [execAp1Process, h, named_some, bind_ok]

theorem exec_apmProcess {a : Place} {r : ApmRole} (h : apmOfPlace a = some (c, r)) (x m : Word) :
    exec (.apmProcess a x m) s = outcomeOf (do
      let y ← apmProcess (apmCap params r) ((s.chan c).apm r) x m
      .ok ((s.setApm c r y.2).yields [y.1])) := by
  show execApmProcess a x m s = _
  simp only [execApmProcess, h, named_some, bind_ok]

theorem exec_ap2Process {a : InstId} (h : ap2OfId a = some c) (x : Word) :
    exec (.ap2Process a x) s = outcomeOf (do
      let y ← ap2Process params (s.chan c).cbassAp2 x
      .ok ((s.setChan c { s.chan c with cbassAp2 := y.2 }).yields [y.1])) := by
  show execAp2Process a x s = _
  simp only [execAp2Process, h, named_some, bind_ok]

theorem exec_ap3mProcess {a : InstId} (h : ap3mOfId a = some c) (x m : Word) :
    exec (.ap3mProcess a x m) s = outcomeOf (do
      let y ← ap3mProcess params (s.chan c).cbassAp3 x m
      .ok ((s.setChan c { s.chan c with cbassAp3 := y.2 }).yields [y.1])) := by
  show execAp3mProcess a x m s = _
  simp only [execAp3mProcess, h, named_some, bind_ok]

theorem exec_combProcess {k : InstId} (h : combOfId k = some c) (x : Word) :
    exec (.combProcess k x) s = outcomeOf (do
      let y ← combProcess (lineCap params .comb) (s.chan c).comb x
      .ok ((s.setChan c { s.chan c with comb := y.2 }).yields [y.1])) := by
  show execCombProcess k x s = _
  simp only [execCombProcess, h, named_some, bind_ok]

theorem exec_osUp {q : InstId} {r : BqRole} (h : bqOfId q = some (c, r)) (u j : Word) :
    exec (.osUp q u j) s = outcomeOf (do
      let y ← osUpStep s.eng.factor ((s.chan c).bq r) u j.toNat
      .ok ((s.setBq c r y.2).yields [y.1])) := by
  show execOsUp q u j s = _
  simp only [execOsUp, h, named_some, bind_ok]

theorem exec_osDown {q : InstId} {r : BqRole} (h : bqOfId q = some (c, r)) (z : Word) :
    exec (.osDown q z) s = outcomeOf (do
      let y ← osDownStep s.eng.factor ((s.chan c).bq r) z
      .ok ((s.setBq c r y.2).yields [y.1])) := by
  show execOsDown q z s = _
  simp only [execOsDown, h, named_some, bind_ok]

end

/-! ## Delay lines -/

section
variable {cap : Nat} {d : Line}

theorem lineRead_of_empty (h : d.size = 0) (k : Nat) : lineRead cap d k = .error .emptyLine :=
  if_pos h

theorem lineRead_of_long (h : cap < d.size) (k : Nat) : lineRead cap d k = .error .lengthAboveCapacity := by
  unfold lineRead
  rw [if_neg (by omega), if_pos h]

theorem lineRead_of_offset (h1 : 1 ≤ d.size) (hc : d.size ≤ cap) {k : Nat} (hk : d.size ≤ k) :
    lineRead cap d k = .error .offsetBeyondLength := by
  unfold lineRead
  rw [if_neg (by omega), if_neg (by omega), if_neg (by omega)]

theorem lineWrite_of_long (h : cap < d.size) (x : Word) : lineWrite cap d x = .error .lengthAboveCapacity := by
  unfold lineWrite
  rw [if_neg (by omega), if_pos h]

theorem lineWrite_of_cursor (h1 : 1 ≤ d.size) (hc : d.size ≤ cap) (hk : cap ≤ d.cursor) (x : Word) :
    lineWrite cap d x = .error .indexBeyondBuffer := by
  unfold lineWrite bufWrite
  rw [if_neg (by omega), if_neg (by omega), if_neg (by omega), bind_error]

theorem lineProcess_of_long (h : cap < d.size) (x : Word) :
    lineProcess cap d x = .error .lengthAboveCapacity := by
  unfold lineProcess
  rw [if_neg (by omega), lineRead_of_long h, bind_error]

end

/-! ## Cascades: a section stops after those before it have run (rules R264 and R265) -/

section
variable {P : Params} {e : Fault}

theorem ap2Process_stop_first {a : Ap2} (h : a.s0.line.stop (lineCap P .cbassAp2S0) = some e) (x : Word) :
    ap2Process P a x = .error e := by
  unfold ap2Process
  rw [ap1Process_stop h, bind_error]

theorem ap2Process_stop_second {a : Ap2} (h0 : a.s0.line.Ok (lineCap P .cbassAp2S0))
    (hs0 : 1 ≤ a.s0.line.size) (h : a.s1.line.stop (lineCap P .cbassAp2S1) = some e) (x : Word) :
    ap2Process P a x = .error e := by
  obtain ⟨t, b0, he0, _⟩ := ap1Process_ok h0 (Nat.one_le_iff_ne_zero.mp hs0) x
  unfold ap2Process
  rw [he0, bind_ok, ap1Process_stop h, bind_error]

theorem ap3mProcess_stop_first {a : Ap3m} (h : a.s0.line.stop (lineCap P .cbassAp3S0) = some e)
    (x m : Word) : ap3mProcess P a x m = .error e := by
  unfold ap3mProcess
  rw [ap1Process_stop h, bind_error]

theorem ap3mProcess_stop_second {a : Ap3m} (h0 : a.s0.line.Ok (lineCap P .cbassAp3S0))
    (hs0 : 1 ≤ a.s0.line.size) (h : a.s1.stop (apmCap P .cbassAp3S1) = some e) (x m : Word) :
    ap3mProcess P a x m = .error e := by
  obtain ⟨t, b0, he0, _⟩ := ap1Process_ok h0 (Nat.one_le_iff_ne_zero.mp hs0) x
  unfold ap3mProcess
  rw [he0, bind_ok, apmProcess_stop h, bind_error]

theorem ap3mProcess_stop_third {a : Ap3m} (h0 : a.s0.line.Ok (lineCap P .cbassAp3S0))
    (hs0 : 1 ≤ a.s0.line.size) (h1 : a.s1.Ok (apmCap P .cbassAp3S1)) (hs1 : 1 ≤ a.s1.size)
    (h : a.s2.line.stop (lineCap P .cbassAp3S2) = some e) (x m : Word) :
    ap3mProcess P a x m = .error e := by
  obtain ⟨t0, b0, he0, _⟩ := ap1Process_ok h0 (Nat.one_le_iff_ne_zero.mp hs0) x
  obtain ⟨t1, b1, he1, _⟩ := apmProcess_ok h1 (Nat.one_le_iff_ne_zero.mp hs1) t0 m
  unfold ap3mProcess
  rw [he0, bind_ok, he1, bind_ok, ap1Process_stop h, bind_error]

end

/-! ## The oversampler and the graph -/

theorem osUpStep_of_factor {f : Nat} (h : f < 2) (q : Bq) (u : Word) (j : Nat) :
    osUpStep f q u j = .error .factorTooSmall := if_pos h

theorem osUpStep_of_subStep {f j : Nat} (h : 2 ≤ f) (hj : f ≤ j) (q : Bq) (u : Word) :
    osUpStep f q u j = .error .subStepBeyondFactor := by
  unfold osUpStep
  rw [if_neg (by omega), if_pos hj]

theorem osDownStep_of_factor {f : Nat} (h : f < 2) (q : Bq) (z : Word) :
    osDownStep f q z = .error .factorTooSmall := if_pos h

theorem needActive_of_active {s : State} (h : s.mode = .active) : needActive s = .ok () := by
  simp [needActive, State.isActive, h]

theorem needActive_of_not_active {s : State} (h : s.mode ≠ .active) : needActive s = .error .notActive := by
  simp [needActive, State.isActive, h]

/-- The graph's operations stop outside ACTIVE, before they do anything else. -/
theorem exec_graph_of_not_active {s : State} (h : s.mode ≠ .active) (a b : Word) :
    exec (.erStep a b) s = .fault .notActive ∧ exec (.lateStep a b) s = .fault .notActive ∧
      exec (.lateOsStep a b) s = .fault .notActive ∧ exec (.engineSample a b) s = .fault .notActive := by
  refine ⟨?_, ?_, ?_, ?_⟩
  · exact outcomeOf_bind_of_error (needActive_of_not_active h) _
  · exact outcomeOf_bind_of_error (needActive_of_not_active h) _
  · exact outcomeOf_bind_of_error (needActive_of_not_active h) _
  · exact outcomeOf_bind_of_error (needActive_of_not_active h) _

/-- With `F = 0` there is no last sub-step whose output could be kept (log entry 18). -/
theorem lateOsStep_of_no_factor {P : Params} {s : State} (h : s.eng.factor = 0) (u : Pair) :
    lateOsStep P s u = .error .factorTooSmall := by
  unfold lateOsStep
  rw [h]
  rfl

theorem exec_lateOsStep_of_no_factor {s : State} (ha : s.mode = .active) (h : s.eng.factor = 0)
    (a b : Word) : exec (.lateOsStep a b) s = .fault .factorTooSmall := by
  show execLateOsStep a b s = _
  rw [execLateOsStep, needActive_of_active ha, bind_ok]
  exact outcomeOf_bind_of_error (lateOsStep_of_no_factor h _) _

/-- Settles O47: each operation reaches the check of its precondition, and the fault is that check's; in a
cascade the sections before the failing one run first. -/
theorem falsePreconditionsFault : Obligations.FalsePreconditionsFault := by
  refine ⟨?lines, ?ap1, ?apm, ?ap2, ?ap3m, ?comb, ?oversampler, ?graph⟩
  case lines =>
    intro d c r k x s hd
    rw [exec_dlRead s hd, exec_dlWrite s hd, exec_dlProcess s hd]
    refine ⟨fun h0 => ?_, fun hlong => ⟨?_, ?_, ?_⟩, fun h1 hc => ⟨fun hk => ?_, fun hcur => ?_⟩⟩
    · exact outcomeOf_bind_of_error (lineRead_of_empty h0 _) _
    · exact outcomeOf_bind_of_error (lineRead_of_long hlong _) _
    · exact outcomeOf_bind_of_error (lineWrite_of_long hlong x) _
    · exact outcomeOf_bind_of_error (lineProcess_of_long hlong x) _
    · exact outcomeOf_bind_of_error (lineRead_of_offset h1 hc hk) _
    · exact outcomeOf_bind_of_error (lineWrite_of_cursor h1 hc hcur x) _
  case ap1 =>
    intro a c r x s e ha h
    rw [exec_ap1Process s ha]
    exact outcomeOf_bind_of_error (ap1Process_stop h x) _
  case apm =>
    intro a c r x m s e ha h
    rw [exec_apmProcess s ha]
    exact outcomeOf_bind_of_error (apmProcess_stop h x m) _
  case ap2 =>
    intro a c x s e ha
    rw [exec_ap2Process s ha]
    refine ⟨fun h => ?_, fun h0 hs0 h => ?_⟩
    · exact outcomeOf_bind_of_error (ap2Process_stop_first h x) _
    · exact outcomeOf_bind_of_error (ap2Process_stop_second h0 hs0 h x) _
  case ap3m =>
    intro a c x m s e ha
    rw [exec_ap3mProcess s ha]
    refine ⟨fun h => ?_, fun h0 hs0 => ⟨fun h => ?_, fun h1 hs1 h => ?_⟩⟩
    · exact outcomeOf_bind_of_error (ap3mProcess_stop_first h x m) _
    · exact outcomeOf_bind_of_error (ap3mProcess_stop_second h0 hs0 h x m) _
    · exact outcomeOf_bind_of_error (ap3mProcess_stop_third h0 hs0 h1 hs1 h x m) _
  case comb =>
    intro k c x s e hk h
    rw [exec_combProcess s hk]
    exact outcomeOf_bind_of_error (combProcess_stop h x) _
  case oversampler =>
    intro q c r u j z s hq
    rw [exec_osUp s hq, exec_osDown s hq]
    refine ⟨fun hf => ⟨?_, ?_⟩, fun hf hj => ?_⟩
    · exact outcomeOf_bind_of_error (osUpStep_of_factor hf _ u _) _
    · exact outcomeOf_bind_of_error (osDownStep_of_factor hf _ z) _
    · exact outcomeOf_bind_of_error (osUpStep_of_subStep hf hj _ u) _
  case graph =>
    intro a b s
    exact ⟨fun h => exec_graph_of_not_active h a b, fun ha h => exec_lateOsStep_of_no_factor ha h a b⟩

end Sys2Proof.Machine

/-! # What an instruction keeps (rules R32, R42, R50 and R51)

Clearing forgets exactly the stream state, so `y.clear = x.clear` and `t.clearStream = s.clearStream` say that
two values differ in stream state only. Every streaming operation is followed up to that equality, whatever
state it starts from; `SameConfig` is read off at the end. -/

namespace Sys2Proof.Machine

open Sys2Proof.Config (Params)

/-! ## Computations whose value, if they have one, has a property -/

/-- The value has the property if the computation meets no fault. -/
def Ensures {α : Type} (x : Except Fault α) (Q : α → Prop) : Prop := ∀ a, x = .ok a → Q a

section
variable {α β : Type} {x : Except Fault α} {f : α → Except Fault β} {Q : α → Prop} {R : β → Prop}

theorem Ensures.ok {a : α} (h : Q a) : Ensures (.ok a) Q := by
  rintro _ ⟨⟩
  exact h

theorem Ensures.error (e : Fault) : Ensures (.error e) Q := nofun

theorem Ensures.bind (hx : Ensures x Q) (hf : ∀ a, Q a → Ensures (f a) R) : Ensures (x >>= f) R := by
  intro b hb
  obtain ⟨a, ha, hb⟩ := bind_eq_ok.mp hb
  exact hf a (hx a ha) b hb

/-- A part whose value does not matter: a read, a check, the resolving of an operand. -/
theorem Ensures.skip (hf : ∀ a, Ensures (f a) R) : Ensures (x >>= f) R :=
  Ensures.bind (Q := fun _ => True) (fun _ _ => trivial) fun a _ => hf a

theorem Ensures.mono {R : α → Prop} (hx : Ensures x Q) (h : ∀ a, Q a → R a) : Ensures x R :=
  fun a ha => h a (hx a ha)

end

/-! ## The primitive operations -/

theorem Line.clear_eq_of_size {d d' : Line} (h : d'.size = d.size) : d'.clear = d.clear := by
  simp only [Line.clear, h]

theorem lineWrite_clear (cap : Nat) (d : Line) (x : Word) :
    Ensures (lineWrite cap d x) fun d' => d'.clear = d.clear :=
  fun _ h => Line.clear_eq_of_size (lineWrite_size h)

theorem lineProcess_clear (cap : Nat) (d : Line) (x : Word) :
    Ensures (lineProcess cap d x) fun r => r.2.clear = d.clear :=
  fun _ h => Line.clear_eq_of_size (lineProcess_size h)

theorem ap1Process_clear (cap : Nat) (a : Ap1) (x : Word) :
    Ensures (ap1Process cap a x) fun r => r.2.clear = a.clear := fun r h => by
  obtain ⟨hsize, hg, hdecay⟩ := ap1Process_config h
  simp only [Ap1.clear, Line.clear_eq_of_size hsize, hg, hdecay]

theorem apmProcess_clear (cap : Nat) (a : Apm) (x m : Word) :
    Ensures (apmProcess cap a x m) fun r => r.2.clear = a.clear := fun r h => by
  obtain ⟨hsize, hmsize, hg, hdecay⟩ := apmProcess_config h
  simp only [Apm.clear, hsize, hmsize, hg, hdecay]

theorem ap2Process_clear (P : Params) (a : Ap2) (x : Word) :
    Ensures (ap2Process P a x) fun r => r.2.clear = a.clear :=
  (ap1Process_clear _ a.s0 x).bind fun t h0 => (ap1Process_clear _ a.s1 t.1).bind fun _ h1 =>
    .ok (by simp only [Ap2.clear, h0, h1])

theorem ap3mProcess_clear (P : Params) (a : Ap3m) (x m : Word) :
    Ensures (ap3mProcess P a x m) fun r => r.2.clear = a.clear :=
  (ap1Process_clear _ a.s0 x).bind fun t0 h0 => (apmProcess_clear _ a.s1 t0.1 m).bind fun t1 h1 =>
    (ap1Process_clear _ a.s2 t1.1).bind fun _ h2 => .ok (by simp only [Ap3m.clear, h0, h1, h2])

theorem combProcess_clear (cap : Nat) (k : Comb) (x : Word) :
    Ensures (combProcess cap k x) fun r => r.2.clear = k.clear := fun r h => by
  obtain ⟨hsize, hfb⟩ := combProcess_config h
  simp only [Comb.clear, Line.clear_eq_of_size hsize, hfb]

@[simp] theorem iir1Process_clear (f : Iir1) (x : Word) : (iir1Process f x).2.clear = f.clear := rfl
@[simp] theorem bqProcess_clear (q : Bq) (x : Word) : (bqProcess q x).2.clear = q.clear := rfl
@[simp] theorem dccProcess_clear (d : Dcc) (x : Word) : (dccProcess d x).2.clear = d.clear := rfl
@[simp] theorem lfoStep_clear (l : Lfo) : (lfoStep l).2.clear = l.clear := by
  unfold lfoStep
  simp only
  split <;> rfl

theorem osUpStep_clear (factor : Nat) (q : Bq) (u : Word) (j : Nat) :
    Ensures (osUpStep factor q u j) fun r => r.2.clear = q.clear := by
  unfold osUpStep
  split
  · exact .error _
  · split
    · exact .error _
    · exact .ok rfl

theorem osDownStep_clear (factor : Nat) (q : Bq) (z : Word) :
    Ensures (osDownStep factor q z) fun r => r.2.clear = q.clear := by
  unfold osDownStep
  split
  · exact .error _
  · exact .ok rfl

theorem noiseNext_clear (n : Noise) : Ensures (noiseNext n) fun r => r.2.clear = n.clear := by
  unfold noiseNext
  split
  · exact .ok rfl
  · exact .error _

/-! ## A part of a channel replaced -/

section
variable (x : Chan)

@[simp] theorem Chan.clear_ap1 (r : Ap1Role) : x.clear.ap1 r = (x.ap1 r).clear := by cases r <;> rfl
@[simp] theorem Chan.clear_iir1 (r : Iir1Role) : x.clear.iir1 r = (x.iir1 r).clear := by cases r <;> rfl
@[simp] theorem Chan.clear_bq (r : BqRole) : x.clear.bq r = (x.bq r).clear := by cases r <;> rfl

theorem Chan.setLine_self (r : LineRole) : x.setLine r (x.line r) = x := by
  rcases r with ⟨_ | _ | _ | _ | _ | _ | _ | _ | _⟩ | _ | _ | _ | _ | _ | _ <;> rfl
theorem Chan.setAp1_self (r : Ap1Role) : x.setAp1 r (x.ap1 r) = x := by cases r <;> rfl
theorem Chan.setApm_self (r : ApmRole) : x.setApm r (x.apm r) = x := by
  cases r with
  | diff i => simp [Chan.setApm, Chan.apm]
  | _ => rfl
theorem Chan.setIir1_self (r : Iir1Role) : x.setIir1 r (x.iir1 r) = x := by cases r <;> rfl
theorem Chan.setBq_self (r : BqRole) : x.setBq r (x.bq r) = x := by cases r <;> rfl

theorem Chan.clear_setLine (r : LineRole) (d : Line) :
    (x.setLine r d).clear = x.clear.setLine r d.clear := by
  rcases r with ⟨_ | _ | _ | _ | _ | _ | _ | _ | _⟩ | _ | _ | _ | _ | _ | _ <;> rfl
theorem Chan.clear_setAp1 (r : Ap1Role) (a : Ap1) : (x.setAp1 r a).clear = x.clear.setAp1 r a.clear := by
  cases r <;> rfl
theorem Chan.clear_setApm (r : ApmRole) (a : Apm) : (x.setApm r a).clear = x.clear.setApm r a.clear := by
  cases r with
  | diff i => simp [Chan.setApm, Chan.clear, Vector.map_set]
  | _ => rfl
theorem Chan.clear_setIir1 (r : Iir1Role) (f : Iir1) :
    (x.setIir1 r f).clear = x.clear.setIir1 r f.clear := by cases r <;> rfl
theorem Chan.clear_setBq (r : BqRole) (q : Bq) : (x.setBq r q).clear = x.clear.setBq r q.clear := by
  cases r <;> rfl

variable {x}

theorem Chan.clear_setLine_eq {r : LineRole} {d : Line} (h : d.clear = (x.line r).clear) :
    (x.setLine r d).clear = x.clear := by
  rw [clear_setLine, h, ← clear_line, setLine_self]

theorem Chan.clear_setAp1_eq {r : Ap1Role} {a : Ap1} (h : a.clear = (x.ap1 r).clear) :
    (x.setAp1 r a).clear = x.clear := by
  rw [clear_setAp1, h, ← clear_ap1, setAp1_self]

theorem Chan.clear_setApm_eq {r : ApmRole} {a : Apm} (h : a.clear = (x.apm r).clear) :
    (x.setApm r a).clear = x.clear := by
  rw [clear_setApm, h, ← clear_apm, setApm_self]

theorem Chan.clear_setIir1_eq {r : Iir1Role} {f : Iir1} (h : f.clear = (x.iir1 r).clear) :
    (x.setIir1 r f).clear = x.clear := by
  rw [clear_setIir1, h, ← clear_iir1, setIir1_self]

theorem Chan.clear_setBq_eq {r : BqRole} {q : Bq} (h : q.clear = (x.bq r).clear) :
    (x.setBq r q).clear = x.clear := by
  rw [clear_setBq, h, ← clear_bq, setBq_self]

end

/-! ## The stages of a channel -/

section
variable (P : Params) (x : Chan)

theorem erShape_clear (v : Word) : (erShape x v).2.clear = x.clear := rfl

theorem dcStage_clear (u : Word) : (dcStage x u).2.clear = x.clear := rfl

theorem crossFilter_clear (v : Word) : (crossFilter x v).2.clear = x.clear := rfl

theorem bassStage_clear (b q : Word) : (bassStage b x q).2.clear = x.clear := rfl

theorem erStore_clear (a : Word) : Ensures (erStore P x a) fun r => r.2.clear = x.clear :=
  (lineWrite_clear _ _ a).bind fun _ hd => .ok (by simp only [Chan.clear, hd])

theorem erCross_clear (t : Word) : Ensures (erCross P x t) fun r => r.2.clear = x.clear :=
  (lineProcess_clear _ _ t).bind fun d hd => (ap1Process_clear _ _ d.1).bind fun _ ha =>
    .ok (by simp only [Chan.clear, hd, ha])

theorem crossStore_clear (p : Word) : Ensures (crossStore P x p) fun r => r.2.clear = x.clear :=
  (lineWrite_clear _ _ p).bind fun _ hd => .ok (by simp only [Chan.clear, hd])

theorem dampStage_clear (m b : Word) : Ensures (dampStage P m x b) fun r => r.2.clear = x.clear :=
  (apmProcess_clear _ _ _ m).bind fun a ha => (apmProcess_clear _ _ a.1 m).bind fun a' ha' =>
    (lineProcess_clear _ _ a'.1).bind fun _ hd =>
      .ok (by simp only [Chan.clear, iir1Process_clear, ha, ha', hd])

theorem cbassStage_clear (m v : Word) : Ensures (cbassStage P m x v) fun r => r.2.clear = x.clear :=
  (lineProcess_clear _ _ v).bind fun d1 hd1 => (ap2Process_clear P _ d1.1).bind fun a2 ha2 =>
    (lineProcess_clear _ _ a2.1).bind fun d2 hd2 => (ap3mProcess_clear P _ d2.1 m).bind fun _ ha3 =>
      .ok (by simp only [Chan.clear, hd1, ha2, hd2, ha3])

theorem combStage_clear (k : Word) : Ensures (combStage P x k) fun r => r.2.clear = x.clear :=
  (combProcess_clear _ _ k).bind fun _ hk => .ok (by simp only [Chan.clear, hk])

theorem outStage_clear (z : Word) : Ensures (outStage P x z) fun r => r.2.clear = x.clear :=
  (lineProcess_clear _ _ _).bind fun _ hd => .ok (by simp only [Chan.clear, bqProcess_clear, hd])

theorem preWetStage_clear (v : Word) : Ensures (preWetStage P x v) fun r => r.2.clear = x.clear :=
  (lineProcess_clear _ _ v).bind fun _ hd => .ok (by simp only [Chan.clear, hd])

theorem preDryStage_clear (v : Word) : Ensures (preDryStage P x v) fun r => r.2.clear = x.clear :=
  (lineProcess_clear _ _ v).bind fun _ hd => .ok (by simp only [Chan.clear, hd])

theorem upStage_clear (factor j : Nat) (u : Word) :
    Ensures (upStage factor j x u) fun r => r.2.clear = x.clear :=
  (osUpStep_clear _ _ u j).bind fun _ hq => .ok (by simp only [Chan.clear, hq])

theorem downStage_clear (factor : Nat) (z : Word) :
    Ensures (downStage factor x z) fun r => r.2.clear = x.clear :=
  (osDownStep_clear _ _ z).bind fun _ hq => .ok (by simp only [Chan.clear, hq])

/-- The diffusion sections write themselves and the noise cursor only (rule R373). -/
theorem diffuse_clear (is : List (Fin 10)) (v : Vector Apm 10) (n : Noise) (w : Word) :
    Ensures (diffuse P is v n w) fun r =>
      r.2.1.map Apm.clear = v.map Apm.clear ∧ r.2.2.clear = n.clear := by
  induction is generalizing v n w with
  | nil => exact .ok ⟨rfl, rfl⟩
  | cons i is ih =>
    refine (noiseNext_clear n).bind fun m hm => (apmProcess_clear _ _ w m.1).bind fun y hy => ?_
    have hset : (v.set i.val y.2 i.isLt).map Apm.clear = v.map Apm.clear := by
      have hi : y.2.clear = (v.map Apm.clear)[i.val] := by rw [Vector.getElem_map]; exact hy
      rw [Vector.map_set, hi, Vector.set_getElem_self]
    exact (ih _ m.2 y.1).mono fun _ ⟨hv, hn⟩ => ⟨hv.trans hset, hn.trans hm⟩

end

/-! ## The stages of the graph -/

section
variable (P : Params) (s : State)

/-- A stage that both channels run (rule R14). -/
theorem bothChans_clear {f : Ch → Chan → Word → Except Fault (Word × Chan)}
    (hf : ∀ c x v, Ensures (f c x v) fun r => r.2.clear = x.clear) (x : Pair) :
    Ensures (bothChans f s x) fun r => r.2.clearStream = s.clearStream :=
  (hf .left s.left x.l).bind fun _ hl => (hf .right s.right x.r).bind fun _ hr =>
    .ok (by simp only [State.clearStream, hl, hr])

theorem modStep_clear : (modStep s).2.clearStream = s.clearStream := by
  simp only [modStep, State.clearStream, lfoStep_clear, iir1Process_clear]

theorem erStep_clear (x : Pair) : Ensures (erStep P s x) fun r => r.2.clearStream = s.clearStream :=
  (bothChans_clear s (fun _ x v => .ok (erShape_clear x v)) x).bind fun a ha =>
    .skip fun _ => .skip fun _ =>
      (bothChans_clear a.2 (fun _ x v => erStore_clear P x v) _).bind fun b hb =>
        (bothChans_clear b.2 (fun _ x v => erCross_clear P x v) _).bind fun _ hr =>
          .ok (hr.trans (hb.trans ha))

theorem diffuseStage_clear (p : Pair) :
    Ensures (diffuseStage P s p) fun r => r.2.clearStream = s.clearStream :=
  (diffuse_clear P sections s.left.diff s.noise p.l).bind fun l ⟨hl, hln⟩ =>
    (diffuse_clear P sections s.right.diff l.2.2 p.r).bind fun _ ⟨hr, hrn⟩ =>
      .ok (by simp only [State.clearStream, Chan.clear, hl, hr, hrn, hln])

theorem crossStage_clear (p : Pair) :
    Ensures (crossStage P s p) fun r => r.2.clearStream = s.clearStream :=
  .skip fun _ => .skip fun _ =>
    (bothChans_clear s (fun _ x v => crossStore_clear P x v) p).bind fun w hw =>
      (bothChans_clear w.2 (fun _ x v => .ok (crossFilter_clear x v)) _).bind fun _ hf =>
        .ok (hf.trans hw)

theorem lateStep_clear (u : Pair) : Ensures (lateStep P s u) fun r => r.2.clearStream = s.clearStream := by
  refine (bothChans_clear _ (fun _ x v => .ok (dcStage_clear x v)) u).bind fun p hp => ?_
  refine (diffuseStage_clear P p.2 _).bind fun d hd => ?_
  refine (crossStage_clear P d.2 _).bind fun q hq => ?_
  refine (bothChans_clear q.2 (fun _ x v => .ok (bassStage_clear x _ v)) _).bind fun b hb => ?_
  refine (bothChans_clear b.2 (fun c x v => dampStage_clear P x (sgn c _) v) _).bind fun g hg => ?_
  refine (bothChans_clear g.2 (fun c x v => cbassStage_clear P x (sgn c _) v) _).bind fun k hk => ?_
  refine (bothChans_clear k.2 (fun _ x v => combStage_clear P x v) _).bind fun z hz => ?_
  refine (bothChans_clear z.2 (fun _ x v => outStage_clear P x v) _).mono fun r hr => ?_
  rw [hr, hz, hk, hg, hb, hq, hd, hp, modStep_clear]

theorem subStep_clear (u : Pair) (j : Nat) :
    Ensures (subStep P s u j) fun r => r.2.clearStream = s.clearStream :=
  (bothChans_clear s (fun _ x v => upStage_clear x _ j v) u).bind fun w hw =>
    (lateStep_clear P w.2 _).bind fun z hz =>
      (bothChans_clear z.2 (fun _ x v => downStage_clear x _ v) _).mono fun _ hr =>
        hr.trans (hz.trans hw)

theorem subSteps_clear (u : Pair) (n j : Nat) (last : Option Pair) :
    Ensures (subSteps P u n j last s) fun r => r.2.clearStream = s.clearStream := by
  induction n generalizing j last s with
  | zero =>
    cases last with
    | none => exact .error _
    | some y => exact .ok rfl
  | succ n ih =>
    exact (subStep_clear P s u j).bind fun r hr => (ih r.2 _ _).mono fun _ h => h.trans hr

theorem lateOsStep_clear (u : Pair) :
    Ensures (lateOsStep P s u) fun r => r.2.clearStream = s.clearStream := by
  unfold lateOsStep
  split
  · exact lateStep_clear P s u
  · exact subSteps_clear P s u _ 0 none

theorem engineSample_clear (x : Pair) :
    Ensures (engineSample P s x) fun r => r.2.clearStream = s.clearStream :=
  (bothChans_clear s (fun _ x v => preWetStage_clear P x v) x).bind fun w hw =>
    (bothChans_clear w.2 (fun _ x v => preDryStage_clear P x v) x).bind fun d hd =>
      (erStep_clear P d.2 _).bind fun r hr => (lateOsStep_clear P r.2 _).bind fun _ hl =>
        .ok (hl.trans (hr.trans (hd.trans hw)))

theorem sampleStep_clear (x : Pair) :
    Ensures (sampleStep P s x) fun r => r.2.clearStream = s.clearStream := by
  unfold sampleStep
  split
  · exact engineSample_clear P s x
  · exact .ok rfl

theorem sampleSteps_clear (xs : List Pair) :
    Ensures (sampleSteps P xs s) fun r => r.2.clearStream = s.clearStream := by
  induction xs generalizing s with
  | nil => exact .ok rfl
  | cons x xs ih =>
    exact (sampleStep_clear P s x).bind fun y hy => (ih y.2).bind fun _ hys => .ok (hys.trans hy)

end

/-! ## From equality up to stream state to the configuration registers -/

section
variable {s t u : State}

theorem SameConfig.refl (s : State) : SameConfig s s := by constructor <;> simp

theorem SameConfig.symm (h : SameConfig s t) : SameConfig t s where
  eng := h.eng.symm
  n_taps c := (h.n_taps c).symm
  taps c := (h.taps c).symm
  line_size c r := (h.line_size c r).symm
  ap1 c r := by simp [h.ap1 c r]
  apm c r := by simp [h.apm c r]
  comb c := (h.comb c).symm
  dcc c := (h.dcc c).symm
  iir1 r := by simp [h.iir1 r]
  bq c r := by simp [h.bq c r]
  lfo r := by simp [h.lfo r]

theorem SameConfig.trans (h : SameConfig s t) (h' : SameConfig t u) : SameConfig s u where
  eng := h'.eng.trans h.eng
  n_taps c := (h'.n_taps c).trans (h.n_taps c)
  taps c := (h'.taps c).trans (h.taps c)
  line_size c r := (h'.line_size c r).trans (h.line_size c r)
  ap1 c r := by simp [h'.ap1 c r, h.ap1 c r]
  apm c r := by simp [h'.apm c r, h.apm c r]
  comb c := (h'.comb c).trans (h.comb c)
  dcc c := (h'.dcc c).trans (h.dcc c)
  iir1 r := by simp [h'.iir1 r, h.iir1 r]
  bq c r := by simp [h'.bq c r, h.bq c r]
  lfo r := by simp [h'.lfo r, h.lfo r]

/-- No configuration register is `MODE`, in the noise source, or a field of the model's own. -/
theorem SameConfig.with_other_fields (h : SameConfig s t) (m : Mode) (n : Noise) (q : List Request)
    (ws os : List Word) :
    SameConfig s { t with mode := m, noise := n, port := q, reply := ws, opResult := os } where
  eng := h.eng
  n_taps := h.n_taps
  taps := h.taps
  line_size := h.line_size
  ap1 := h.ap1
  apm := h.apm
  comb := h.comb
  dcc := h.dcc
  iir1 := h.iir1
  bq := h.bq
  lfo := h.lfo

/-- `t` has the configuration registers and `MODE` of `s`. -/
structure Keeps (s t : State) : Prop where
  config : SameConfig s t
  mode : t.mode = s.mode

theorem Keeps.of_clearStream (h : t.clearStream = s.clearStream) : Keeps s t where
  config := by
    have ht : SameConfig t s.clearStream := h ▸ t.clearStream_sameConfig
    exact s.clearStream_sameConfig.trans ht.symm
  mode := by
    calc t.mode = t.clearStream.mode := rfl
      _ = s.mode := by rw [h, State.clearStream_mode]

/-- The noise source and the model's own fields replaced. -/
theorem Keeps.with_other_fields (h : Keeps s t) (n : Noise) (q : List Request) (ws os : List Word) :
    Keeps s { t with noise := n, port := q, reply := ws, opResult := os } :=
  ⟨h.config.with_other_fields _ n q ws os, h.mode⟩

theorem Keeps.refl (s : State) : Keeps s s := ⟨.refl s, rfl⟩

theorem Keeps.accept (h : Keeps s t) (ws : List Word) : Keeps s (t.accept ws) :=
  h.with_other_fields _ _ _ _

theorem Keeps.yields (h : Keeps s t) (ws : List Word) : Keeps s (t.yields ws) :=
  h.with_other_fields _ _ _ _

/-- A channel replaced by one that differs in stream state only. -/
theorem Keeps.setChan {c : Ch} {x : Chan} (h : x.clear = (s.chan c).clear) : Keeps s (s.setChan c x) := by
  refine .of_clearStream ?_
  cases c with
  | left =>
    have hl : x.clear = s.left.clear := h
    simp only [State.setChan, State.clearStream, hl]
  | right =>
    have hr : x.clear = s.right.clear := h
    simp only [State.setChan, State.clearStream, hr]

theorem Keeps.setIir1 {r : Iir1Ref} {f : Iir1} (h : f.clear = (s.iir1 r).clear) :
    Keeps s (s.setIir1 r f) := by
  cases r with
  | chan c r => exact .setChan (Chan.clear_setIir1_eq h)
  | lfo1 =>
    have h1 : f.clear = s.lfo1Lpf.clear := h
    exact .of_clearStream (by simp only [State.setIir1, State.clearStream, h1])
  | lfo2 =>
    have h2 : f.clear = s.lfo2Lpf.clear := h
    exact .of_clearStream (by simp only [State.setIir1, State.clearStream, h2])

theorem Keeps.setLfo {r : LfoRef} {l : Lfo} (h : l.clear = (s.lfo r).clear) : Keeps s (s.setLfo r l) := by
  cases r with
  | lfo1 =>
    have h1 : l.clear = s.lfo1.clear := h
    exact .of_clearStream (by simp only [State.setLfo, State.clearStream, h1])
  | lfo2 =>
    have h2 : l.clear = s.lfo2.clear := h
    exact .of_clearStream (by simp only [State.setLfo, State.clearStream, h2])

end

/-! ## The instructions -/

/-- The instructions that write stream state and results only: all but RESET, the configurations and
DERIVE. -/
def isStreaming : Instr → Bool
  | .reset => false
  | .cfgBypass _ => false
  | .cfgPreset _ _ => false
  | .cfgAdvanced _ _ => false
  | .cfgVector _ _ => false
  | .derive _ => false
  | _ => true

section
variable {s t : State}

theorem keeps_of_next {r : Except Fault State} (h : outcomeOf r = .next t) (hr : Ensures r (Keeps s)) :
    Keeps s t := hr t (outcomeOf_eq_next.mp h)

/-- Every streaming instruction that completes keeps `MODE` and every configuration register. -/
theorem exec_keeps {i : Instr} (hi : isStreaming i = true) (h : exec i s = .next t) : Keeps s t := by
  cases i with
  | processSample a b =>
    exact keeps_of_next h ((sampleStep_clear params s _).bind fun _ hr =>
      .ok ((Keeps.of_clearStream hr).accept _))
  | processBlock xs =>
    exact keeps_of_next h ((sampleSteps_clear params s xs).bind fun _ hr =>
      .ok ((Keeps.of_clearStream hr).accept _))
  | queryValid =>
    cases h
    exact (Keeps.refl s).accept _
  | dlWrite d x =>
    exact keeps_of_next h (.skip fun _ => (lineWrite_clear _ _ x).bind fun _ hd =>
      .ok ((Keeps.setChan (Chan.clear_setLine_eq hd)).yields _))
  | dlRead d k => exact keeps_of_next h (.skip fun _ => .skip fun _ => .ok ((Keeps.refl s).yields _))
  | dlProcess d x =>
    exact keeps_of_next h (.skip fun _ => (lineProcess_clear _ _ x).bind fun _ hd =>
      .ok ((Keeps.setChan (Chan.clear_setLine_eq hd)).yields _))
  | iir1Process f x =>
    exact keeps_of_next h (.skip fun _ => .ok ((Keeps.setIir1 (iir1Process_clear _ x)).yields _))
  | bqProcess q x =>
    exact keeps_of_next h (.skip fun _ =>
      .ok ((Keeps.setChan (Chan.clear_setBq_eq (bqProcess_clear _ x))).yields _))
  | ap1Process a x =>
    exact keeps_of_next h (.skip fun _ => (ap1Process_clear _ _ x).bind fun _ ha =>
      .ok ((Keeps.setChan (Chan.clear_setAp1_eq ha)).yields _))
  | ap2Process a x =>
    exact keeps_of_next h (.skip fun _ => (ap2Process_clear _ _ x).bind fun _ ha =>
      .ok ((Keeps.setChan (by simp only [Chan.clear, ha])).yields _))
  | ap3mProcess a x m =>
    exact keeps_of_next h (.skip fun _ => (ap3mProcess_clear _ _ x m).bind fun _ ha =>
      .ok ((Keeps.setChan (by simp only [Chan.clear, ha])).yields _))
  | apmProcess a x m =>
    exact keeps_of_next h (.skip fun _ => (apmProcess_clear _ _ x m).bind fun _ ha =>
      .ok ((Keeps.setChan (Chan.clear_setApm_eq ha)).yields _))
  | combProcess k x =>
    exact keeps_of_next h (.skip fun _ => (combProcess_clear _ _ x).bind fun _ hk =>
      .ok ((Keeps.setChan (by simp only [Chan.clear, hk])).yields _))
  | noiseNext n =>
    exact keeps_of_next h (.skip fun _ => .skip fun _ => .ok ((Keeps.refl s).with_other_fields _ _ _ _))
  | noiseGenerate n =>
    exact keeps_of_next h (.skip fun _ => .ok ((Keeps.refl s).with_other_fields _ _ _ _))
  | lfoStep l => exact keeps_of_next h (.skip fun _ => .ok ((Keeps.setLfo (lfoStep_clear _)).yields _))
  | dccutProcess d x =>
    exact keeps_of_next h (.skip fun _ => .ok ((Keeps.setChan (dcStage_clear _ x)).yields _))
  | osUp q u j =>
    exact keeps_of_next h (.skip fun _ => (osUpStep_clear _ _ u _).bind fun _ hq =>
      .ok ((Keeps.setChan (Chan.clear_setBq_eq hq)).yields _))
  | osDown q z =>
    exact keeps_of_next h (.skip fun _ => (osDownStep_clear _ _ z).bind fun _ hq =>
      .ok ((Keeps.setChan (Chan.clear_setBq_eq hq)).yields _))
  | erStep a b =>
    exact keeps_of_next h (.skip fun _ => (erStep_clear params s _).bind fun _ hr =>
      .ok ((Keeps.of_clearStream hr).yields _))
  | lateStep a b =>
    exact keeps_of_next h (.skip fun _ => (lateStep_clear params s _).bind fun _ hr =>
      .ok ((Keeps.of_clearStream hr).yields _))
  | lateOsStep a b =>
    exact keeps_of_next h (.skip fun _ => (lateOsStep_clear params s _).bind fun _ hr =>
      .ok ((Keeps.of_clearStream hr).yields _))
  | engineSample a b =>
    exact keeps_of_next h (.skip fun _ => (engineSample_clear params s _).bind fun _ hr =>
      .ok ((Keeps.of_clearStream hr).yields _))
  | _ => cases hi

@[simp] theorem configure_mode (P : Params) (keep : Bool) (m : Mode) (p : Option ParamVec) (s : State) :
    (configure P keep m p s).mode = m := rfl

@[simp] theorem derive_mode (P : Params) (p : ParamVec) (s : State) : (derive P p s).mode = s.mode := by
  unfold derive
  split <;> rfl

/-- A configuration without parameters writes no configuration register (rule R422). -/
theorem configure_none_sameConfig (P : Params) (keep : Bool) (m : Mode) (s : State) :
    SameConfig s (configure P keep m none s) := by
  rw [configure_eq]
  cases keep with
  | true => exact s.reduceCursors_sameConfig.with_other_fields m _ _ _ _
  | false => exact s.clearStream_sameConfig.with_other_fields m _ _ _ _

/-- CFG_PRESET enters ACTIVE, or is rejected and leaves `MODE` (rule R423). -/
theorem cfgPreset_mode (P : Params) (keep : Bool) (id : BitVec 16) (s : State) :
    (cfgPreset P keep id s).mode = .active ∨ (cfgPreset P keep id s).mode = s.mode := by
  unfold cfgPreset
  split
  · exact .inl rfl
  · exact .inr rfl

/-- CFG_VECTOR enters BYPASS or ACTIVE, or is rejected and leaves `MODE` (rule R425). -/
theorem cfgVector_mode (P : Params) (keep : Bool) (v : List Word) (s : State) :
    (cfgVector P keep v s).mode = .bypass ∨ (cfgVector P keep v s).mode = .active ∨
      (cfgVector P keep v s).mode = s.mode := by
  unfold cfgVector
  split
  · exact .inl rfl
  · exact .inr (.inl rfl)
  · exact .inr (.inr rfl)

end

/-- Settles O17: the streaming instructions (`exec_keeps`), DERIVE and a rejected configuration keep `MODE`;
RESET and each accepted configuration set their own. -/
theorem modeIsWrittenByConfigurationOnly : Obligations.ModeIsWrittenByConfigurationOnly := by
  refine ⟨⟨rfl, rfl, rfl⟩, fun i s t h hne => ?_⟩
  cases i with
  | reset =>
    cases h
    exact .inl ⟨rfl, rfl⟩
  | cfgBypass keep =>
    cases h
    exact .inr (.inl ⟨keep, rfl, rfl⟩)
  | cfgPreset keep id =>
    cases h
    exact .inr (.inr (.inl ⟨keep, id, rfl, (cfgPreset_mode params keep id s).resolve_right hne⟩))
  | cfgAdvanced keep p =>
    cases h
    exact .inr (.inr (.inr (.inl ⟨keep, p, rfl, rfl⟩)))
  | cfgVector keep v =>
    cases h
    have hm := (or_assoc.mpr (cfgVector_mode params keep v s)).resolve_right hne
    exact .inr (.inr (.inr (.inr ⟨keep, v, rfl, hm⟩)))
  | derive p =>
    cases h
    exact absurd (derive_mode params p s) hne
  | _ => exact absurd (exec_keeps rfl h).mode hne

/-- Settles O18: the streaming instructions by `exec_keeps`, CFG_BYPASS because it only clears or reduces
stream state. -/
theorem configurationRegistersAreWrittenByResetAndDeriver :
    Obligations.ConfigurationRegistersAreWrittenByResetAndDeriver := by
  intro i s t h hreset hderive hadvanced hpreset hvector
  cases i with
  | reset => exact absurd rfl hreset
  | derive p => exact absurd rfl (hderive p)
  | cfgAdvanced keep p => exact absurd rfl (hadvanced keep p)
  | cfgPreset keep id => exact absurd rfl (hpreset keep id)
  | cfgVector keep v => exact absurd rfl (hvector keep v)
  | cfgBypass keep =>
    cases h
    exact (configure_none_sameConfig params keep .bypass s).with_other_fields _ _ _ _ _
  | _ => exact (exec_keeps rfl h).config

end Sys2Proof.Machine

/-! # The state after reset (rules R51 and R60) -/

namespace Sys2Proof.Machine

@[simp] theorem State.reset_chan (c : Ch) : State.reset.chan c = .reset := by cases c <;> rfl

@[simp] theorem Chan.reset_line (r : LineRole) : Chan.reset.line r = .reset := by
  rcases r with ⟨_ | _ | _ | _ | _ | _ | _ | _ | _⟩ | _ | _ | _ | _ | _ | _ <;> rfl

@[simp] theorem Chan.reset_ap1 (r : Ap1Role) : Chan.reset.ap1 r = .reset := by cases r <;> rfl

@[simp] theorem Chan.reset_apm (r : ApmRole) : Chan.reset.apm r = .reset := by
  cases r with
  | diff i => simp [Chan.apm, Chan.reset]
  | _ => rfl

@[simp] theorem Chan.reset_iir1 (r : Iir1Role) : Chan.reset.iir1 r = .reset := by cases r <;> rfl

@[simp] theorem Chan.reset_bq (r : BqRole) : Chan.reset.bq r = .reset := by cases r <;> rfl

@[simp] theorem State.reset_iir1 (r : Iir1Ref) : State.reset.iir1 r = .reset := by
  cases r with
  | chan c r => simp [State.iir1]
  | _ => rfl

@[simp] theorem State.reset_lfo (r : LfoRef) : State.reset.lfo r = .reset := by cases r <;> rfl

/-- There is nothing to clear after reset. -/
theorem State.reset_clearStream : State.reset.clearStream = State.reset := by
  have hc : Chan.reset.clear = Chan.reset := by
    have hd : (Vector.replicate 10 Apm.reset).map Apm.clear = .replicate 10 .reset := by
      rw [Vector.map_replicate]
      rfl
    unfold Chan.clear Chan.reset
    simp only [hd]
    rfl
  unfold State.clearStream State.reset
  simp only [hc]
  rfl

theorem State.reset_streamCleared : StreamCleared State.reset :=
  State.reset_clearStream ▸ State.reset.clearStream_cleared

/-- Settles O11: stream state is cleared (`State.reset_streamCleared`), and every accessor of a configuration
register answers the reset value of its type. -/
theorem resetValues : Obligations.ResetValues := by
  refine ⟨rfl, State.reset_streamCleared, rfl, rfl,
    ?taps, ?lines, ?ap1s, ?apms, ?combs, ?iir1s, ?bqs, ?lfos⟩
  case taps =>
    intro c
    rw [State.reset_chan]
    exact ⟨rfl, fun k => by simp [Chan.reset]⟩
  case lines => intro c r; rw [State.reset_chan, Chan.reset_line]; rfl
  case ap1s => intro c r; rw [State.reset_chan, Chan.reset_ap1]; exact ⟨rfl, rfl⟩
  case apms => intro c r; rw [State.reset_chan, Chan.reset_apm]; exact ⟨rfl, rfl, rfl, rfl⟩
  case combs => intro c; rw [State.reset_chan]; exact ⟨rfl, rfl⟩
  case iir1s => intro r; rw [State.reset_iir1]; exact ⟨rfl, rfl, rfl⟩
  case bqs => intro c r; rw [State.reset_chan, Chan.reset_bq]; exact ⟨rfl, rfl, rfl, rfl, rfl⟩
  case lfos => intro r; rw [State.reset_lfo]; exact ⟨rfl, rfl⟩

/-- Settles O13: the state after reset is `inv_reset` with nothing waiting on the port. -/
theorem invariantHoldsAtReset : Obligations.InvariantHoldsAtReset :=
  inv_reset params (q := []) nofun

end Sys2Proof.Machine

/-! # Operands that name nothing of the operation's type (rules R40 and R141) -/

namespace Sys2Proof.Machine

/-- A meaning whose operand names nothing of its type stops before it does anything. -/
theorem outcomeOf_named_of_isSome_false {α : Type} {r : Option α} (h : r.isSome = false)
    (f : α → Except Fault State) : outcomeOf (named r >>= f) = .fault .wrongInstance := by
  cases r with
  | none => rfl
  | some a => cases h

/-- The noise source's two operations check their operand with a test instead of a lookup. -/
theorem outcomeOf_named_of_false {b : Bool} (h : b = false) (f : Unit → Except Fault State) :
    outcomeOf (named (if b then some () else none) >>= f) = .fault .wrongInstance := by
  rw [h]
  rfl

/-- Settles O48: every primitive operation resolves its operand first, and well-formedness is that the operand
resolves. -/
theorem wrongInstancesFault : Obligations.WrongInstancesFault := by
  intro i s h hvector hblock
  cases i with
  | cfgVector keep v => exact absurd rfl (hvector keep v)
  | processBlock xs => exact absurd rfl (hblock xs)
  | noiseNext n => exact outcomeOf_named_of_false h _
  | noiseGenerate n => exact outcomeOf_named_of_false h _
  | dlWrite | dlRead | dlProcess | iir1Process | bqProcess | ap1Process | ap2Process | ap3mProcess
  | apmProcess | combProcess | lfoStep | dccutProcess | osUp | osDown =>
    exact outcomeOf_named_of_isSome_false h _
  | _ => cases h

end Sys2Proof.Machine

/-! # Words as bytes (rules R103 and R130) -/

namespace Sys2Proof

/-- The byte that starts at bit `i` of a word holds, at `j`, the word's bit `i + j`. -/
theorem getLsbD_extractByte (w : Word) (i : Nat) {j : Nat} (hj : j < 8) :
    (w.extractLsb' i 8).getLsbD j = w.getLsbD (i + j) := by
  rw [BitVec.getLsbD_extractLsb', decide_eq_true hj, Bool.true_and]

theorem getLsbD_bytesOfWord (w : Word) {k j : Nat} (hk : k < 4) (hj : j < 8) :
    ((bytesOfWord w).getD k 0).getLsbD j = w.getLsbD (8 * k + j) := by
  match k, hk with
  | 0, _ | 1, _ | 2, _ | 3, _ => exact getLsbD_extractByte w _ hj

/-- Four neighbouring bytes joined are the bits they were cut from: each join is of two ranges that meet. -/
theorem wordOfBytes_extract (w : Word) :
    wordOfBytes (w.extractLsb' 0 8) (w.extractLsb' 8 8) (w.extractLsb' 16 8) (w.extractLsb' 24 8) = w := by
  unfold wordOfBytes
  rw [BitVec.extractLsb'_append_extractLsb'_eq_extractLsb' (by decide),
    BitVec.extractLsb'_append_extractLsb'_eq_extractLsb' (by decide),
    BitVec.extractLsb'_append_extractLsb'_eq_extractLsb' (by decide)]
  exact BitVec.extractLsb'_eq_self

/-- Reading takes the bytes of a word off the front of a sequence and goes on with the rest. -/
theorem wordsOfBytes_bytesOfWord_append (w : Word) {bs : List Byte} {ws : List Word}
    (h : wordsOfBytes bs = some ws) : wordsOfBytes (bytesOfWord w ++ bs) = some (w :: ws) := by
  simp [bytesOfWord, wordsOfBytes, h, wordOfBytes_extract]

theorem wordsOfBytes_flatMap_bytesOfWord (ws : List Word) :
    wordsOfBytes (ws.flatMap bytesOfWord) = some ws := by
  induction ws with
  | nil => rfl
  | cons w ws ih => exact wordsOfBytes_bytesOfWord_append w ih

theorem recordOfBytes_bytesOfRecord (r : Record) : recordOfBytes (bytesOfRecord r) = some r := by
  unfold recordOfBytes bytesOfRecord
  rw [wordsOfBytes_flatMap_bytesOfWord]

/-- Settles O4: the bits of each byte by `getLsbD_bytesOfWord`, and a record's words read back one by one
(`wordsOfBytes_flatMap_bytesOfWord`). -/
theorem wordsAreCarriedLittleEndian : Obligations.WordsAreCarriedLittleEndian :=
  ⟨fun w _ _ hk hj => ⟨rfl, getLsbD_bytesOfWord w hk hj⟩, recordOfBytes_bytesOfRecord⟩

end Sys2Proof

/-! # What a step does with the first request (rules R107 and R130) -/

namespace Sys2Proof.Machine

/-- Settles O5: a waiting request selects the second branch of `step`, and its decoding the branch that runs
the instruction. -/
theorem stepRunsTheDecodedInstruction : Obligations.StepRunsTheDecodedInstruction := by
  intro s r rest i hport hdecode
  unfold step
  rw [hport]
  simp only [hdecode]

end Sys2Proof.Machine

/-! # Records and the instructions they carry (rules R131, R132, R136, R140 to R142) -/

namespace Sys2Proof

open Sys2Proof.Machine

/-! ## Header fields and counts -/

/-- The header of every instruction's record carries its opcode. -/
theorem opOf_encode (i : Instr) : opOf (encode i).header = i.opcode := by
  cases i with
  | reset | cfgBypass | cfgPreset | cfgAdvanced | cfgVector | processSample | processBlock | queryValid =>
    exact Laws.opOf_headerH _ _ _
  | _ => exact Laws.opOf_headerI _ _

/-- The engine's opcodes lie above those of the command port (rules R140 and R141). -/
theorem Instr.opcode_gt_of_engine {i : Instr} (h : i.origin = .engine) : 8 < i.opcode := by
  cases i with
  | reset | cfgBypass | cfgPreset | cfgAdvanced | cfgVector | processSample | processBlock | queryValid =>
    cases h
  | _ => simp [Instr.opcode]

theorem toNat_countWord {n : Nat} (h : n < 2 ^ 32) : (countWord n).toNat = n := by
  rw [countWord, BitVec.toNat_ofNat, Nat.mod_eq_of_lt h]

theorem countWord_toNat (l : Word) : countWord l.toNat = l := by
  rw [countWord, BitVec.ofNat_toNat, BitVec.setWidth_eq]

/-- The places a record can carry are those that are no part of another (rule R141). -/
theorem Place.eq_inst_of_encodable {d : Place} (h : d.encodable = true) : ∃ id, d = .inst id := by
  cases d with
  | inst id => exact ⟨id, rfl⟩
  | _ => cases h

/-! ## Decoding what was encoded -/

/-- The host's commands: each record's reserved fields are right, so its payload decides, and the payload is
the one `decodePayload` reads for the opcode; a counted payload needs its count to fit the count word. -/
theorem decode_encode_of_host {i : Instr} (ho : i.origin = .host) (hw : i.wellFormed = true) :
    decode .host (encode i) = .ok i := by
  cases i with
  | reset | processSample | queryValid => exact decode_host_headerH _ _ _ _ (by decide) nofun nofun
  | cfgBypass | cfgAdvanced =>
    exact decode_host_headerH _ _ _ _ (by decide) (fun _ => by decide) nofun
  | cfgPreset =>
    exact decode_host_headerH _ _ _ _ (by decide) (fun _ => by decide) (fun _ => rfl)
  | cfgVector keep v =>
    have hlen : v.length = (countWord v.length).toNat := (toNat_countWord (of_decide_eq_true hw)).symm
    calc decode .host (encode (.cfgVector keep v))
        = decodePayload 5 keep 0 (countWord v.length :: v) :=
          decode_host_headerH _ _ _ _ (by decide) (fun _ => by decide) nofun
      _ = .ok (.cfgVector keep v) := by rw [decodePayload_cfgVector, if_pos hlen]
  | processBlock xs =>
    have hlen : (wordsOfPairs xs).length = 2 * (countWord xs.length).toNat := by
      rw [wordsOfPairs_length, toNat_countWord (of_decide_eq_true hw)]
    calc decode .host (encode (.processBlock xs))
        = decodePayload 7 false 0 (countWord xs.length :: wordsOfPairs xs) :=
          decode_host_headerH _ _ _ _ (by decide) nofun nofun
      _ = .ok (.processBlock xs) := by
          simp only [decodePayload_processBlock, if_pos hlen, pairsOfWords_wordsOfPairs]
  | _ => cases ho

/-- The internal operations: `INST` carries the number of the operand, and is 0 where the operation has
none. -/
theorem decode_encode_of_engine {i : Instr} (ho : i.origin = .engine) (he : i.encodable = true) :
    decode .engine (encode i) = .ok i := by
  cases i with
  | reset | cfgBypass | cfgPreset | cfgAdvanced | cfgVector | processSample | processBlock | queryValid =>
    cases ho
  | dlWrite d | dlRead d | dlProcess d | ap1Process d | apmProcess d =>
    obtain ⟨id, rfl⟩ := Place.eq_inst_of_encodable he
    exact decode_engine_headerI _ _ _ (by decide)
  | _ => exact decode_engine_headerI _ _ _ (by decide)

/-- Settles O1: by the agent that issues the instruction, `decode_encode_of_host` and
`decode_encode_of_engine`. -/
theorem decodeOfEncode : Obligations.DecodeOfEncode := by
  intro i hw he
  cases ho : i.origin with
  | host => exact decode_encode_of_host ho hw
  | engine => exact decode_encode_of_engine ho he

/-- Settles O3: each example record is the record of the command beside it, which then decodes to that
command (`decode_encode_of_host`). -/
theorem exampleRecordsDecode : Obligations.ExampleRecordsDecode :=
  ⟨decode_encode_of_host (i := .reset) rfl rfl,
    decode_encode_of_host (i := .cfgBypass true) rfl rfl,
    decode_encode_of_host (i := .cfgPreset false 3) rfl rfl,
    decode_encode_of_host (i := .cfgPreset true 3) rfl rfl,
    decode_encode_of_host (i := .processSample 0x3F800000 0xBF000000) rfl rfl,
    decode_encode_of_host
      (i := .processBlock [⟨0x3E800000, 0x00000000⟩, ⟨0x00000000, 0x80000000⟩]) rfl rfl,
    decode_encode_of_host (i := .queryValid) rfl rfl,
    decode_encode_of_host (i := .cfgVector false [params.sentinelPreset, 0x3F800000]) rfl rfl⟩

/-! ## Encoding what was decoded -/

/-- The fields of a header that passes the checks of the command port (rules R131, R142 and R451). -/
structure PortFields (op : Nat) (keep : Bool) (imm : BitVec 16) : Prop where
  op_range : 1 ≤ op ∧ op ≤ 8
  keep_op : keep = true → ¬(op = 1 ∨ op = 6 ∨ op = 7 ∨ op = 8)
  imm_op : imm ≠ 0 → op = 3

section
variable {op : Nat} {keep : Bool} {imm : BitVec 16}

theorem PortFields.keep_eq_false (h : PortFields op keep imm) (ho : op = 1 ∨ op = 6 ∨ op = 7 ∨ op = 8) :
    keep = false :=
  Bool.eq_false_iff.mpr fun hk => h.keep_op hk ho

theorem PortFields.imm_eq_zero (h : PortFields op keep imm) (ho : op ≠ 3) : imm = 0 :=
  of_not_not fun hi => ho (h.imm_op hi)

/-- What a record that the port takes has passed: its header's checks, and then its payload's. -/
theorem decode_host_eq_ok {r : Record} {i : Instr} (h : decode .host r = .ok i) :
    rsvOf r.header = 0 ∧ PortFields (opOf r.header) (preserveOf r.header) (immOf r.header) ∧
      decodePayload (opOf r.header) (preserveOf r.header) (immOf r.header) r.payload = .ok i := by
  change decodeHost r = .ok i at h
  unfold decodeHost at h
  simp only at h
  split at h
  · cases h
  next hop =>
  split at h
  · cases h
  next hrsv =>
  split at h
  · cases h
  next hkeep =>
  split at h
  · cases h
  next himm =>
  have hfields : PortFields (opOf r.header) (preserveOf r.header) (immOf r.header) :=
    ⟨by omega, fun hk ho => hkeep ⟨hk, ho⟩, fun hi => of_not_not fun ho => himm ⟨hi, ho⟩⟩
  exact ⟨of_not_not hrsv, hfields, h⟩

/-- What `encode` writes for an instruction: the header of the given fields, and the payload. The instruction
is one that a record can carry. -/
def EncodesAs (i : Instr) (op : Nat) (keep : Bool) (imm : BitVec 16) (ws : List Word) : Prop :=
  encode i = ⟨headerH (BitVec.ofNat 8 op) keep imm, ws⟩ ∧ i.wellFormed = true ∧ i.encodable = true

/-- An operation without a payload: the payload was empty. -/
theorem EncodesAs.of_empty_payload {ws : List Word} {i j : Instr} (hj : EncodesAs j op keep imm [])
    (h : (if ws = [] then .ok j else .error .badLength : Except Status Instr) = .ok i) :
    EncodesAs i op keep imm ws := by
  split at h <;> cases h
  next hws => exact hws ▸ hj

/-- A payload read under fields the port takes is the payload its instruction is written with, under the
same fields. -/
theorem encodesAs_of_decodePayload {ws : List Word} {i : Instr} (hf : PortFields op keep imm)
    (h : decodePayload op keep imm ws = .ok i) : EncodesAs i op keep imm ws := by
  have hrange := hf.op_range
  have hop : op = 1 ∨ op = 2 ∨ op = 3 ∨ op = 4 ∨ op = 5 ∨ op = 6 ∨ op = 7 ∨ op = 8 := by omega
  rcases hop with rfl | rfl | rfl | rfl | rfl | rfl | rfl | rfl
  · obtain rfl := hf.keep_eq_false (by decide)
    obtain rfl := hf.imm_eq_zero (by decide)
    exact .of_empty_payload ⟨rfl, rfl, rfl⟩ (decodePayload_reset .. ▸ h)
  · obtain rfl := hf.imm_eq_zero (by decide)
    exact .of_empty_payload ⟨rfl, rfl, rfl⟩ (decodePayload_cfgBypass .. ▸ h)
  · exact .of_empty_payload ⟨rfl, rfl, rfl⟩ (decodePayload_cfgPreset .. ▸ h)
  · obtain rfl := hf.imm_eq_zero (by decide)
    rw [decodePayload_cfgAdvanced] at h
    split at h <;> cases h
    next hp => exact ⟨by rw [← words_of_paramsOfWords hp]; rfl, rfl, rfl⟩
  · obtain rfl := hf.imm_eq_zero (by decide)
    cases ws with
    | nil => cases h
    | cons l v =>
      rw [decodePayload_cfgVector] at h
      split at h <;> cases h
      next hlen => exact ⟨by rw [encode, hlen, countWord_toNat]; rfl, decide_eq_true (hlen ▸ l.isLt), rfl⟩
  · obtain rfl := hf.keep_eq_false (by decide)
    obtain rfl := hf.imm_eq_zero (by decide)
    rw [decodePayload_processSample] at h
    split at h <;> cases h
    exact ⟨rfl, rfl, rfl⟩
  · obtain rfl := hf.keep_eq_false (by decide)
    obtain rfl := hf.imm_eq_zero (by decide)
    cases ws with
    | nil => cases h
    | cons n ws =>
      rw [decodePayload_processBlock] at h
      split at h
      next hlen =>
        split at h <;> cases h
        next xs hxs =>
          obtain ⟨hws, hpairs⟩ := wordsOfPairs_of_pairsOfWords ws xs hxs
          have hn : xs.length = n.toNat := by omega
          exact ⟨by rw [encode, hn, countWord_toNat, hws]; rfl, decide_eq_true (hn ▸ n.isLt), rfl⟩
      · cases h
  · obtain rfl := hf.keep_eq_false (by decide)
    obtain rfl := hf.imm_eq_zero (by decide)
    exact .of_empty_payload ⟨rfl, rfl, rfl⟩ (decodePayload_queryValid .. ▸ h)

end

/-- Settles O2: the port's checks fix every header field the payload does not decide, and a header without
reserved bits is put together from its fields (`headerH_of_fields`). -/
theorem encodeOfDecodeOnThePort : Obligations.EncodeOfDecodeOnThePort := by
  intro r i h
  obtain ⟨hrsv, hfields, hpayload⟩ := decode_host_eq_ok h
  obtain ⟨hencode, hw, he⟩ := encodesAs_of_decodePayload hfields hpayload
  rw [← headerH_of_fields r.header hrsv] at hencode
  exact ⟨hencode, origin_of_decode_host h, hw, he⟩

/-! ## Records the port rejects -/

/-- The first check of the command port is the opcode's (rules R142 and R451). -/
theorem decode_host_of_op_gt {r : Record} (h : 8 < opOf r.header) : decode .host r = .error .illegalOp :=
  if_pos (.inr h)

end Sys2Proof

namespace Sys2Proof.Machine

/-- A host's record that spells no instruction is answered with its status, and nothing else changes but the
queue (rule R453). -/
theorem step_of_decode_error {s : State} {r : Record} {rest : List Request} {e : Status}
    (hport : s.port = ⟨.host, r⟩ :: rest) (h : decode .host r = .error e) :
    step s = .next { s with port := rest, reply := [statusWord e] } := by
  unfold step
  rw [hport]
  simp only [h]
  rfl

/-- Settles O10: the record carries an opcode the port does not have (`opOf_encode`,
`Instr.opcode_gt_of_engine`). -/
theorem internalOperationsAreIllegalOnThePort : Obligations.InternalOperationsAreIllegalOnThePort := by
  intro s i rest horigin hport
  have hop : 8 < opOf (encode i).header := opOf_encode i ▸ Instr.opcode_gt_of_engine horigin
  exact step_of_decode_error hport (decode_host_of_op_gt hop)

end Sys2Proof.Machine

/-! # What a flat control vector selects (rules R144 and R425) -/

namespace Sys2Proof.Machine

open Sys2Proof.Config (Params)

/-! ## The preset an index selects -/

section
variable {P : Params} {x : Word}

theorem presetOfIndex_of_fin {neg : Bool} {m : Nat} {e : Int} (hx : val32 x = .fin neg m e)
    (hpos : 0 ≤ truncFin neg m e) : presetOfIndex P x = presetRow P (truncFin neg m e).toNat := by
  unfold presetOfIndex
  simp only [hx, if_neg (Int.not_lt.mpr hpos)]

theorem presetRow_eq_none {id : Nat} (h : nPresets P ≤ id) : presetRow P id = none :=
  List.getElem?_eq_none h

/-- An index that is no finite value, or truncates outside the table, selects no row. -/
theorem presetOfIndex_eq_none
    (h : ∀ neg m e, val32 x = .fin neg m e →
      truncFin neg m e < 0 ∨ nPresets P ≤ (truncFin neg m e).toNat) : presetOfIndex P x = none := by
  unfold presetOfIndex
  split
  next neg m e hx =>
    split
    · rfl
    next hpos => exact presetRow_eq_none ((h neg m e hx).resolve_left hpos)
  · rfl

end

/-! ## The mode of a vector, case by case -/

section
variable {P : Params} {v0 x : Word} {rest : List Word} {p : ParamVec}

theorem vectorMode_of_long {v : List Word} (h : vecMax < v.length) :
    vectorMode P v = .rejected .badLength := by
  cases v with
  | nil => rfl
  | cons v0 rest => exact if_pos h

theorem vectorMode_of_bypass (hlen : rest.length < vecMax) (hb : eq32 v0 P.sentinelBypass = true) :
    vectorMode P (v0 :: rest) = .bypass := by
  simpa [vectorMode, hb] using hlen

theorem vectorMode_of_preset_alone (hb : eq32 v0 P.sentinelBypass = false)
    (hp : eq32 v0 P.sentinelPreset = true) : vectorMode P [v0] = .rejected .badLength := by
  simp [vectorMode, vecMax, hb, hp]

theorem vectorMode_of_preset (hlen : (x :: rest).length < vecMax) (hb : eq32 v0 P.sentinelBypass = false)
    (hp : eq32 v0 P.sentinelPreset = true) (hx : presetOfIndex P x = some p) :
    vectorMode P (v0 :: x :: rest) = .advanced p := by
  simpa [vectorMode, hb, hp, hx] using hlen

theorem vectorMode_of_bad_preset (hlen : (x :: rest).length < vecMax)
    (hb : eq32 v0 P.sentinelBypass = false) (hp : eq32 v0 P.sentinelPreset = true)
    (hx : presetOfIndex P x = none) : vectorMode P (v0 :: x :: rest) = .rejected .badPreset := by
  simpa [vectorMode, hb, hp, hx] using hlen

theorem vectorMode_of_advanced (hlen : rest.length < vecMax) (hb : eq32 v0 P.sentinelBypass = false)
    (hp : eq32 v0 P.sentinelPreset = false) (hw : paramsOfWords ((v0 :: rest).take 17) = some p) :
    vectorMode P (v0 :: rest) = .advanced p := by
  simp only [vectorMode, List.length_cons, Nat.not_lt.mpr hlen, hb, hp, hw, if_false, Bool.false_eq_true]

theorem vectorMode_of_short (hlen : rest.length < 16) (hb : eq32 v0 P.sentinelBypass = false)
    (hp : eq32 v0 P.sentinelPreset = false) : vectorMode P (v0 :: rest) = .rejected .badLength := by
  have hmax : ¬ vecMax < rest.length + 1 := by unfold vecMax; omega
  have hw : paramsOfWords ((v0 :: rest).take 17) = none :=
    paramsOfWords_eq_none (by rw [List.length_take, List.length_cons]; omega)
  simp only [vectorMode, List.length_cons, hmax, hb, hp, hw, if_false, Bool.false_eq_true]

end

/-! ## What CFG_VECTOR does in each mode -/

section
variable {v : List Word}

theorem exec_cfgVector_of_bypass (h : vectorMode params v = .bypass) (keep : Bool) (s : State) :
    exec (.cfgVector keep v) s = exec (.cfgBypass keep) s := by
  simp only [exec, execCfgVector, cfgVector, h, execCfgBypass]

theorem exec_cfgVector_of_advanced {p : ParamVec} (h : vectorMode params v = .advanced p) (keep : Bool)
    (s : State) : exec (.cfgVector keep v) s = exec (.cfgAdvanced keep p) s := by
  simp only [exec, execCfgVector, cfgVector, h, execCfgAdvanced]

theorem exec_cfgVector_of_rejected {e : Status} (h : vectorMode params v = .rejected e) (keep : Bool)
    (s : State) : exec (.cfgVector keep v) s = .next { s with reply := [statusWord e] } := by
  simp only [exec, execCfgVector, cfgVector, h, State.reject]

end

/-- Settles O22: `vectorMode` of each vector, and that CFG_VECTOR does what the mode's own command does, which
completes. -/
theorem cfgVectorSelectsItsMode : Obligations.CfgVectorSelectsItsMode := by
  refine ⟨?bypass, ?preset, ?advanced⟩
  case bypass =>
    intro keep v0 rest s hlen hb
    exact ⟨_, exec_cfgVector_of_bypass (vectorMode_of_bypass hlen hb) keep s, rfl⟩
  case preset =>
    intro keep v0 x rest s neg m e p hlen hb hp hx hpos hrow
    have hindex : presetOfIndex params x = some p := presetOfIndex_of_fin hx hpos ▸ hrow
    have hmode := vectorMode_of_preset (Nat.succ_lt_succ hlen) hb hp hindex
    exact ⟨_, exec_cfgVector_of_advanced hmode keep s, rfl⟩
  case advanced =>
    intro keep p more s hlen hb hp
    have hmax : (p.words ++ more).tail.length < vecMax := by
      simp only [List.length_tail, List.length_append, ParamVec.words_length, vecMax]
      omega
    have hwords : paramsOfWords ((p.words ++ more).take 17) = some p := by
      rw [List.take_left' p.words_length, paramsOfWords_words]
    exact ⟨_, exec_cfgVector_of_advanced (vectorMode_of_advanced hmax hb hp hwords) keep s, rfl⟩

/-- Settles O23: `vectorMode` rejects each of these vectors, and CFG_VECTOR then changes the answer alone
(`exec_cfgVector_of_rejected`). -/
theorem cfgVectorRejections : Obligations.CfgVectorRejections := by
  refine ⟨?empty, ?long, ?presetAlone, ?short, ?badPreset⟩
  case empty => exact exec_cfgVector_of_rejected (e := .badLength) rfl
  case long =>
    intro keep v s hlen
    exact exec_cfgVector_of_rejected (vectorMode_of_long hlen) keep s
  case presetAlone =>
    intro keep v0 s hb hp
    exact exec_cfgVector_of_rejected (vectorMode_of_preset_alone hb hp) keep s
  case short =>
    intro keep v0 rest s hlen hb hp
    exact exec_cfgVector_of_rejected (vectorMode_of_short hlen hb hp) keep s
  case badPreset =>
    intro keep v0 x rest s hlen hb hp hx
    have hmode := vectorMode_of_bad_preset (Nat.succ_lt_succ hlen) hb hp (presetOfIndex_eq_none hx)
    exact exec_cfgVector_of_rejected hmode keep s

end Sys2Proof.Machine

/-! # Every step keeps the invariant (rules R61, R201, R263, R300 and R310)

A command of the host's completes in a state of the invariant (`completes_exec`). An internal operation that
completes keeps the configuration registers (`exec_keeps`), so what is left to follow is the stream state: every
line, every modulated all-pass, the noise source and the oscillators stay in order. -/

namespace Sys2Proof.Machine

open Sys2Proof.Config (Params)

/-- What a computation that succeeds has, it ensures. -/
theorem Succeeds.ensures {α : Type} {x : Except Fault α} {Q : α → Prop} (h : Succeeds x Q) :
    Ensures x Q := by
  obtain ⟨a, rfl, ha⟩ := h
  exact .ok ha

/-! ## The primitive operations

Where the precondition is false the operation stops, and there is nothing to show. -/

section
variable {cap : Nat}

theorem lineWrite_keeps_ok {d : Line} (h : d.Ok cap) (x : Word) :
    Ensures (lineWrite cap d x) fun d' => d'.Ok cap :=
  ((lineWrite_succeeds h x).mono fun _ hd => hd.ok).ensures

theorem lineProcess_keeps_ok {d : Line} (h : d.Ok cap) (x : Word) :
    Ensures (lineProcess cap d x) fun r => r.2.Ok cap :=
  ((lineProcess_succeeds h x).mono fun _ hd => hd.ok).ensures

theorem ap1Process_keeps_ok {a : Ap1} (h : a.line.Ok cap) (x : Word) :
    Ensures (ap1Process cap a x) fun r => r.2.line.Ok cap := by
  by_cases hs : a.line.size = 0
  · rw [ap1Process_stop (if_pos hs)]
    exact .error _
  · exact ((ap1Process_succeeds h hs x).mono fun _ ha => ha.ok).ensures

theorem combProcess_keeps_ok {k : Comb} (h : k.line.Ok cap) (x : Word) :
    Ensures (combProcess cap k x) fun r => r.2.line.Ok cap := by
  by_cases hs : k.line.size = 0
  · rw [combProcess_stop (if_pos hs)]
    exact .error _
  · exact ((combProcess_succeeds h hs x).mono fun _ hk => hk.ok).ensures

theorem apmProcess_keeps_ok {a : Apm} (h : a.Ok cap) (x m : Word) :
    Ensures (apmProcess cap a x m) fun r => r.2.Ok cap := by
  by_cases hs : a.size = 0
  · rw [apmProcess_stop (if_pos (.inl hs))]
    exact .error _
  · exact ((apmProcess_succeeds h hs x m).mono fun _ ha => ha.ok).ensures

end

/-! ## A channel -/

/-- Every line and every modulated all-pass of a channel is in order (rule R61), whatever the mode. -/
structure Chan.InOrder (P : Params) (x : Chan) : Prop where
  line : ∀ r, (x.line r).Ok (lineCap P r)
  apm : ∀ r, (x.apm r).Ok (apmCap P r)

section
variable {P : Params} {x y : Chan}

theorem Chan.InOrder.of_eq (h : x.InOrder P) (hl : ∀ r, y.line r = x.line r)
    (ha : ∀ r, y.apm r = x.apm r) : y.InOrder P :=
  ⟨fun r => hl r ▸ h.line r, fun r => ha r ▸ h.apm r⟩

theorem Chan.InOrder.setLine (h : x.InOrder P) {r : LineRole} {d : Line} (hd : d.Ok (lineCap P r)) :
    (x.setLine r d).InOrder P where
  line q := by
    rw [Chan.line_setLine]
    split
    · subst q; exact hd
    · exact h.line q
  apm q := by
    rw [Chan.apm_setLine]
    exact h.apm q

theorem Chan.InOrder.setAp1 (h : x.InOrder P) {r : Ap1Role} {a : Ap1}
    (ha : a.line.Ok (lineCap P r.line)) : (x.setAp1 r a).InOrder P :=
  (h.setLine ha).of_eq (fun q => by rw [Chan.line_setAp1, Chan.line_setLine])
    (fun q => by rw [Chan.apm_setAp1, Chan.apm_setLine])

theorem Chan.InOrder.setApm (h : x.InOrder P) {r : ApmRole} {a : Apm} (ha : a.Ok (apmCap P r)) :
    (x.setApm r a).InOrder P where
  line q := by
    rw [Chan.line_setApm]
    exact h.line q
  apm q := by
    rw [Chan.apm_setApm]
    split
    · subst q; exact ha
    · exact h.apm q

theorem Chan.InOrder.ap1_line (h : x.InOrder P) (r : Ap1Role) : (x.ap1 r).line.Ok (lineCap P r.line) := by
  rw [Chan.ap1_line]
  exact h.line r.line

/-- AP2_PROCESS inside a channel (rule R264). -/
theorem ap2Process_inOrder (h : x.InOrder P) (v : Word) :
    Ensures (ap2Process P x.cbassAp2 v) fun r => ({ x with cbassAp2 := r.2 } : Chan).InOrder P := by
  refine (ap1Process_keeps_ok (h.line .cbassAp2S0) v).bind fun a ha => ?_
  have h1 := h.setAp1 (r := .cbassAp2S0) ha
  refine (ap1Process_keeps_ok (h1.line .cbassAp2S1) a.1).bind fun b hb => ?_
  exact .ok (h1.setAp1 (r := .cbassAp2S1) hb)

/-- AP3M_PROCESS inside a channel (rule R265). -/
theorem ap3mProcess_inOrder (h : x.InOrder P) (v m : Word) :
    Ensures (ap3mProcess P x.cbassAp3 v m) fun r => ({ x with cbassAp3 := r.2 } : Chan).InOrder P := by
  refine (ap1Process_keeps_ok (h.line .cbassAp3S0) v).bind fun a ha => ?_
  have h1 := h.setAp1 (r := .cbassAp3S0) ha
  refine (apmProcess_keeps_ok (h1.apm .cbassAp3S1) a.1 m).bind fun b hb => ?_
  have h2 := h1.setApm (r := .cbassAp3S1) hb
  refine (ap1Process_keeps_ok (h2.line .cbassAp3S2) b.1).bind fun c hc => ?_
  exact .ok (h2.setAp1 (r := .cbassAp3S2) hc)

theorem Chan.InOrder.setDcc (h : x.InOrder P) (d : Dcc) : ({ x with dccut := d } : Chan).InOrder P :=
  h.of_eq (fun _ => rfl) (fun _ => rfl)

/-- A comb is its line and a feedback, and the feedback is of no concern here. -/
theorem Chan.InOrder.setComb (h : x.InOrder P) {k : Comb} (hk : k.line.Ok (lineCap P .comb)) :
    ({ x with comb := k } : Chan).InOrder P :=
  (h.setLine hk).of_eq (fun _ => rfl) (fun _ => rfl)

end

/-! ## The state -/

/-- `t` has its stream state in order, and the requests of `s` wait on its port. -/
structure StreamInOrder (P : Params) (s t : State) : Prop where
  chan : ∀ c, (t.chan c).InOrder P
  noise : t.noise.Ok
  lfo_count : ∀ r, (t.lfo r).count < lfoRenorm
  port : t.port = s.port

section
variable {P : Params} {s t : State}

theorem Inv.streamInOrder (h : Inv P s) : StreamInOrder P s s where
  chan c := ⟨h.line_ok c, h.apm_ok c⟩
  noise := ⟨h.noise_tab, h.noise_pos⟩
  lfo_count := h.lfo_count
  port := rfl

/-- The invariant is stream state in order, and clauses on `MODE`, the configuration registers and the waiting
requests. -/
theorem Inv.of_keeps (h : Inv P s) (hk : Keeps s t) (ho : StreamInOrder P s t) : Inv P t where
  line_ok c := (ho.chan c).line
  apm_ok c := (ho.chan c).apm
  noise_tab := ho.noise.tab
  noise_pos := ho.noise.npos
  lfo_count := ho.lfo_count
  factor_ge := hk.config.eng ▸ h.factor_ge
  factor_le := hk.config.eng ▸ h.factor_le
  ready ha c := (h.ready (hk.mode ▸ ha) c).of_sizes (hk.config.line_size c)
    (fun r => ⟨(hk.config.apm c r).1, (hk.config.apm c r).2.1⟩) (hk.config.n_taps c) (hk.config.taps c)
  port_ok := ho.port ▸ h.port_ok

theorem StreamInOrder.yields (h : StreamInOrder P s t) (ws : List Word) : StreamInOrder P s (t.yields ws) where
  chan c := by rw [State.chan_yields]; exact h.chan c
  noise := h.noise
  lfo_count r := by rw [State.lfo_yields]; exact h.lfo_count r
  port := h.port

theorem StreamInOrder.setChan (h : StreamInOrder P s t) {c : Ch} {x : Chan} (hx : x.InOrder P) :
    StreamInOrder P s (t.setChan c x) where
  chan d := by
    rw [State.chan_setChan]
    split
    · exact hx
    · exact h.chan d
  noise := by rw [State.noise_setChan]; exact h.noise
  lfo_count r := by rw [State.lfo_setChan]; exact h.lfo_count r
  port := by rw [State.port_setChan]; exact h.port

theorem StreamInOrder.setIir1 (h : StreamInOrder P s t) (r : Iir1Ref) (f : Iir1) :
    StreamInOrder P s (t.setIir1 r f) := by
  have hl : ∀ q, ((t.setIir1 r f).lfo q).count < lfoRenorm := fun q => by
    rw [State.lfo_setIir1]
    exact h.lfo_count q
  cases r with
  | chan c r => exact h.setChan ((h.chan c).of_eq (by simp) (by simp))
  | lfo1 => exact ⟨h.chan, h.noise, hl, h.port⟩
  | lfo2 => exact ⟨h.chan, h.noise, hl, h.port⟩

theorem StreamInOrder.setBq (h : StreamInOrder P s t) (c : Ch) (r : BqRole) (q : Bq) :
    StreamInOrder P s (t.setBq c r q) :=
  h.setChan ((h.chan c).of_eq (by simp) (by simp))

theorem StreamInOrder.setLfo (h : StreamInOrder P s t) {r : LfoRef} {l : Lfo} (hl : l.count < lfoRenorm) :
    StreamInOrder P s (t.setLfo r l) where
  chan c := by rw [State.chan_setLfo]; exact h.chan c
  noise := by rw [State.noise_setLfo]; exact h.noise
  lfo_count q := by
    rw [State.lfo_setLfo]
    split
    · exact hl
    · exact h.lfo_count q
  port := by rw [State.port_setLfo]; exact h.port

theorem StreamInOrder.setNoise (h : StreamInOrder P s t) {n : Noise} (hn : n.Ok) :
    StreamInOrder P s { t with noise := n } :=
  ⟨h.chan, hn, fun q => by cases q; exacts [h.lfo_count .lfo1, h.lfo_count .lfo2], h.port⟩

end

/-! ## The internal operations -/

section
variable {s t : State}

/-- An operation that keeps `MODE` and the configuration registers, and leaves the stream state in order. -/
theorem Inv.of_operation {r : Except Fault State} (h : Inv params s) (hk : Keeps s t)
    (ht : outcomeOf r = .next t) (hr : Ensures r (StreamInOrder params s)) : Inv params t :=
  h.of_keeps hk (hr t (outcomeOf_eq_next.mp ht))

theorem Inv.yields (h : Inv params s) (ws : List Word) : Inv params (s.yields ws) :=
  h.with_model_fields h.port_ok _ _

/-- The graph's operations run in ACTIVE only, and there they stay in the invariant (rules R350, R380, R382
and R390). -/
theorem inv_of_graph {α : Type} {op : Except Fault (α × State)} {ws : α → List Word}
    (hop : s.mode = .active → Succeeds op fun r => Streams params s r.2)
    (ht : outcomeOf (do let _ ← needActive s; let r ← op; .ok (r.2.yields (ws r.1))) = .next t) :
    Inv params t := by
  by_cases ha : s.mode = .active
  · rw [needActive_of_active ha, bind_ok] at ht
    obtain ⟨r, hr, ht⟩ := bind_eq_ok.mp (outcomeOf_eq_next.mp ht)
    cases ht
    exact ((hop ha).ensures r hr).inv.yields _
  · rw [needActive_of_not_active ha] at ht
    cases ht

/-- Every internal operation but DERIVE keeps the invariant (rule R61). -/
theorem exec_engine_inv (h : Inv params s) {i : Instr} (hi : i.origin = .engine) (hd : ∀ p, i ≠ .derive p)
    (ht : exec i s = .next t) : Inv params t := by
  have ho := h.streamInOrder
  cases i with
  | dlWrite d x =>
    exact h.of_operation (exec_keeps rfl ht) ht (.skip fun r =>
      (lineWrite_keeps_ok (h.line_ok r.1 r.2) x).bind fun _ hd' =>
        .ok ((ho.setChan ((ho.chan r.1).setLine hd')).yields _))
  | dlRead d k =>
    exact h.of_operation (exec_keeps rfl ht) ht (.skip fun _ => .skip fun _ => .ok (ho.yields _))
  | dlProcess d x =>
    exact h.of_operation (exec_keeps rfl ht) ht (.skip fun r =>
      (lineProcess_keeps_ok (h.line_ok r.1 r.2) x).bind fun _ hd' =>
        .ok ((ho.setChan ((ho.chan r.1).setLine hd')).yields _))
  | iir1Process f x =>
    exact h.of_operation (exec_keeps rfl ht) ht (.skip fun r => .ok ((ho.setIir1 r _).yields _))
  | bqProcess q x =>
    exact h.of_operation (exec_keeps rfl ht) ht (.skip fun r => .ok ((ho.setBq r.1 r.2 _).yields _))
  | ap1Process a x =>
    exact h.of_operation (exec_keeps rfl ht) ht (.skip fun r =>
      (ap1Process_keeps_ok ((ho.chan r.1).ap1_line r.2) x).bind fun _ ha =>
        .ok ((ho.setChan ((ho.chan r.1).setAp1 ha)).yields _))
  | ap2Process a x =>
    exact h.of_operation (exec_keeps rfl ht) ht (.skip fun c =>
      (ap2Process_inOrder (ho.chan c) x).bind fun _ hx => .ok ((ho.setChan hx).yields _))
  | ap3mProcess a x m =>
    exact h.of_operation (exec_keeps rfl ht) ht (.skip fun c =>
      (ap3mProcess_inOrder (ho.chan c) x m).bind fun _ hx => .ok ((ho.setChan hx).yields _))
  | apmProcess a x m =>
    exact h.of_operation (exec_keeps rfl ht) ht (.skip fun r =>
      (apmProcess_keeps_ok (h.apm_ok r.1 r.2) x m).bind fun _ ha =>
        .ok ((ho.setChan ((ho.chan r.1).setApm ha)).yields _))
  | combProcess k x =>
    exact h.of_operation (exec_keeps rfl ht) ht (.skip fun c =>
      (combProcess_keeps_ok (h.line_ok c .comb) x).bind fun _ hk =>
        .ok ((ho.setChan ((ho.chan c).setComb hk)).yields _))
  | noiseNext n =>
    exact h.of_operation (exec_keeps rfl ht) ht (.skip fun _ =>
      (noiseNext_succeeds ho.noise).ensures.bind fun _ hn => .ok ((ho.setNoise hn).yields _))
  | noiseGenerate n =>
    have hn : (noiseGenerate s.noise).Ok := ⟨rfl, Nat.two_pow_pos 14⟩
    exact h.of_operation (exec_keeps rfl ht) ht (.skip fun _ => .ok ((ho.setNoise hn).yields _))
  | lfoStep l =>
    exact h.of_operation (exec_keeps rfl ht) ht (.skip fun r =>
      .ok ((ho.setLfo (lfoStep_count (s.lfo r) (h.lfo_count r))).yields _))
  | dccutProcess d x =>
    exact h.of_operation (exec_keeps rfl ht) ht (.skip fun c =>
      .ok ((ho.setChan ((ho.chan c).setDcc _)).yields _))
  | osUp q u j =>
    exact h.of_operation (exec_keeps rfl ht) ht (.skip fun r => .skip fun _ =>
      .ok ((ho.setBq r.1 r.2 _).yields _))
  | osDown q z =>
    exact h.of_operation (exec_keeps rfl ht) ht (.skip fun r => .skip fun _ =>
      .ok ((ho.setBq r.1 r.2 _).yields _))
  | erStep a b =>
    exact inv_of_graph (ws := fun r : ErResult => r.e.words ++ r.a.words)
      (fun ha => erStep_succeeds (.refl h ha) ⟨a, b⟩) ht
  | lateStep a b => exact inv_of_graph (fun ha => lateStep_succeeds (.refl h ha) _) ht
  | lateOsStep a b => exact inv_of_graph (fun ha => lateOsStep_succeeds (.refl h ha) _) ht
  | engineSample a b => exact inv_of_graph (fun ha => engineSample_succeeds (.refl h ha) _) ht
  | derive p => exact absurd rfl (hd p)
  | _ => cases hi

/-- Every instruction but DERIVE keeps the invariant. -/
theorem exec_inv (h : Inv params s) {i : Instr} (hd : ∀ p, i ≠ .derive p) (ht : exec i s = .next t) :
    Inv params t := by
  cases hi : i.origin with
  | host =>
    obtain ⟨t', ht', hinv, _⟩ := completes_exec h hi
    rw [ht] at ht'
    cases ht'
    exact hinv
  | engine => exact exec_engine_inv h hi hd ht

/-- A request that spells no instruction: the host's is rejected, the engine's answers no next state. -/
theorem rejectRequest_inv (h : Inv params s) {o : Origin} {e : Status}
    (ht : rejectRequest o e s = .next t) : Inv params t := by
  cases o with
  | host =>
    cases ht
    exact h.reject e
  | engine => cases ht

end

/-- Settles O14: with no request the state stays; the instruction of the first request keeps the invariant
(`exec_inv`), and by the clause on the waiting requests it is no DERIVE. -/
theorem stepKeepsTheInvariant : Obligations.StepKeepsTheInvariant := by
  intro s t h ht
  cases hp : s.port with
  | nil =>
    unfold step at ht
    rw [hp] at ht
    cases ht
    exact h
  | cons r rest =>
    have h' := h.take_request hp
    unfold step at ht
    rw [hp] at ht
    simp only at ht
    split at ht
    case h_1 i hi =>
      have hd : ∀ p, i ≠ .derive p := fun p hip =>
        h.port_ok r (hp ▸ List.mem_cons_self) p (hip ▸ hi)
      exact exec_inv h' hd ht
    case h_2 e _ => exact rejectRequest_inv h' ht

end Sys2Proof.Machine

/-! # The delay line (rules R200 to R204) -/

namespace Sys2Proof.Machine

open Sys2Proof.Config (Params)

/-! ## The frame of an operation on one channel -/

section
variable {s t : State}

/-- Replacing a channel keeps a part of each channel that the new one shares with the old. -/
theorem State.part_setChan {α : Type} (f : Chan → α) {c e : Ch} {x : Chan} (h : e = c → f x = f (s.chan e)) :
    f ((s.setChan c x).chan e) = f (s.chan e) := by
  rw [State.chan_setChan]
  split
  next he => exact h he
  · rfl

/-- A channel replaced by one that differs in the stream state of the parts named only. -/
theorem Unchanged.setChan {T : Touched} {c : Ch} {x : Chan} (hclear : x.clear = (s.chan c).clear)
    (hline : ∀ r, (c, r) ∉ T.lines → x.line r = (s.chan c).line r)
    (hapm : ∀ r, (c, r) ∉ T.apms → x.apm r = (s.chan c).apm r)
    (hiir1 : ∀ r, .chan c r ∉ T.iir1s → x.iir1 r = (s.chan c).iir1 r)
    (hbq : ∀ r, (c, r) ∉ T.bqs → x.bq r = (s.chan c).bq r)
    (hdcc : c ∉ T.dccs → x.dccut = (s.chan c).dccut) : Unchanged T s (s.setChan c x) where
  config := (Keeps.setChan hclear).config
  mode := State.mode_setChan ..
  noise_tab := by rw [State.noise_setChan]
  port := State.port_setChan ..
  reply := State.reply_setChan ..
  line _ r hr := State.part_setChan (·.line r) (by rintro rfl; exact hline r hr)
  apm _ r hr := State.part_setChan (·.apm r) (by rintro rfl; exact hapm r hr)
  iir1 r hr := by
    rcases r with ⟨e, r⟩ | _ | _
    · exact State.part_setChan (·.iir1 r) (by rintro rfl; exact hiir1 r hr)
    · exact State.lfo1Lpf_setChan ..
    · exact State.lfo2Lpf_setChan ..
  bq _ r hr := State.part_setChan (·.bq r) (by rintro rfl; exact hbq r hr)
  dcc _ he := State.part_setChan (·.dccut) (by rintro rfl; exact hdcc he)
  lfo r _ := State.lfo_setChan ..
  noise _ := by rw [State.noise_setChan]

/-- A line replaced by one of the same length: nothing changes but its stream state. -/
theorem Unchanged.setLine {c : Ch} {r : LineRole} {d : Line} (h : d.size = ((s.chan c).line r).size) :
    Unchanged { lines := [(c, r)] } s (s.setLine c r d) := by
  refine .setChan (Chan.clear_setLine_eq (Line.clear_eq_of_size h)) (fun q hq => ?_)
    (by simp) (by simp) (by simp) (by simp)
  have hne : q ≠ r := fun hqr => hq (hqr ▸ List.mem_singleton_self _)
  rw [Chan.line_setLine, if_neg hne]

/-- The result of an internal operation is outside every frame. -/
theorem Unchanged.yields {T : Touched} (h : Unchanged T s t) (ws : List Word) :
    Unchanged T s (t.yields ws) where
  config := h.config.with_other_fields _ _ _ _ _
  mode := h.mode
  noise_tab := h.noise_tab
  port := h.port
  reply := h.reply
  line := h.line
  apm := h.apm
  iir1 := h.iir1
  bq := h.bq
  dcc := h.dcc
  lfo := h.lfo
  noise := h.noise

theorem State.line_setLine_yields (s : State) (c : Ch) (r : LineRole) (d : Line) (ws : List Word) :
    (((s.setLine c r d).yields ws).chan c).line r = d := by
  rw [State.chan_yields, State.chan_setLine, if_pos rfl, Chan.line_setLine_same]

end

/-- Settles O29: the write of a line in order succeeds (`lineWrite_ok`), and replacing the line changes nothing
else (`Unchanged.setLine`). -/
theorem dlWriteResult : Obligations.DlWriteResult := by
  intro d c r x s hd hok
  obtain ⟨d', hw, hwrites, _⟩ := lineWrite_ok hok x
  refine ⟨(s.setLine c r d').yields [], ?_, rfl, ?_, (Unchanged.setLine (lineWrite_size hw)).yields _⟩
  · rw [exec_dlWrite s hd, hw, bind_ok, outcomeOf_ok]
  · rw [State.line_setLine_yields]
    exact hwrites

/-- Settles O31: as DL_WRITE, with the oldest word as the result (`lineProcess_ok`). -/
theorem dlProcessResult : Obligations.DlProcessResult := by
  intro d c r x s hd hok
  obtain ⟨y, d', hp, hdelays, _⟩ := lineProcess_ok hok x
  refine ⟨(s.setLine c r d').yields [y], y, ?_, rfl, ?_, (Unchanged.setLine (lineProcess_size hp)).yields _⟩
  · rw [exec_dlProcess s hd, hp, bind_ok, outcomeOf_ok]
  · rw [State.line_setLine_yields]
    exact hdelays

/-! ## Where a read looks -/

section
variable {d d' : Line} {k : Nat}

theorem Line.Ok.cursor_lt_size {cap : Nat} (h : d.Ok cap) (hs : d.size ≠ 0) : d.cursor < d.size :=
  h.cursor_lt.resolve_right fun hc => hs hc.2

/-- The slot read at offset `k` is the one that is `k` steps behind the cursor (rules R200 and R202). -/
theorem lineIndex_add_mod (hc : d.cursor < d.size) (hk : k ≤ d.size) :
    (lineIndex d k + k) % d.size = d.cursor := by
  by_cases h : k ≤ d.cursor
  · rw [lineIndex_le d k h hc, Nat.sub_add_cancel h, Nat.mod_eq_of_lt hc]
  · rw [lineIndex_gt d k (by omega) hk, Nat.sub_add_cancel (by omega), Nat.add_mod_right,
      Nat.mod_eq_of_lt hc]

/-- A whole length behind the cursor is the cursor's own slot, the oldest (rule R204). -/
theorem lineIndex_size (hc : d.cursor < d.size) : lineIndex d d.size = lineIndex d 0 := by
  rw [lineIndex_zero d hc, lineIndex_gt d d.size hc (Nat.le_refl _), Nat.add_sub_cancel]

/-- A write moves every slot one step further behind the cursor (rules R201 and R204). -/
theorem lineIndex_succ (hs : d'.size = d.size) (hc : d'.cursor = (d.cursor + 1) % d.size) (k : Nat) :
    lineIndex d' (k + 1) = lineIndex d k := by
  unfold lineIndex
  rw [hs, hc]
  push_cast
  rw [Int.emod_sub_emod]
  congr 2
  omega

/-- Between the newest slot and the oldest no slot is the cursor's. -/
theorem lineIndex_ne_cursor (hc : d.cursor < d.size) (h0 : k ≠ 0) (hk : k < d.size) :
    lineIndex d k ≠ d.cursor := by
  by_cases h : k ≤ d.cursor
  · rw [lineIndex_le d k h hc]
    omega
  · rw [lineIndex_gt d k (by omega) (by omega)]
    omega

end

/-- Settles O30: the word is the one at `lineIndex`, which lies `offset` steps behind the cursor. -/
theorem dlReadResult : Obligations.DlReadResult := by
  intro d c r k s hd hok hk
  have hc := hok.cursor_lt_size (by omega)
  refine ⟨lineIndex ((s.chan c).line r) k.toNat, lineIndex_lt _ _ (by omega),
    lineIndex_add_mod hc (Nat.le_of_lt hk), ?_⟩
  rw [exec_dlRead s hd, lineRead_ok hok.size_le hk, bind_ok, outcomeOf_ok]
  rfl

/-! ## The age of a read (rule R204) -/

/-- The line remembers the words `hs`, the newest first: `a` steps behind the newest stands word `a` of them,
and `z` where there are fewer. -/
def Line.Remembers (d : Line) (z : Word) (hs : List Word) : Prop :=
  ∀ a, a < d.size → Memory.read d.buf (lineIndex d (a + 1)) = hs.getD a z

section
variable {cap : Nat} {d d' : Line} {z : Word} {hs : List Word}

/-- A write is remembered as the newest word, and every other word is a step older. -/
theorem Line.Remembers.write (h : d.Remembers z hs) (hok : d.Ok cap) {x : Word} (hw : d.Writes d' x) :
    d'.Remembers z (x :: hs) := by
  intro a ha
  by_cases h0 : d.size = 0
  · rw [hw.1 h0, h0] at ha
    cases ha
  obtain ⟨hsize, hcursor, hstores⟩ := hw.2 h0
  have hc := hok.cursor_lt_size h0
  rw [lineIndex_succ hsize hcursor, hstores]
  cases a with
  | zero =>
    rw [lineIndex_zero d hc, if_pos rfl]
    rfl
  | succ a =>
    rw [if_neg (lineIndex_ne_cursor hc (Nat.succ_ne_zero a) (hsize ▸ ha))]
    exact h a (by omega)

/-- After writes the line remembers them all, before what it remembered. -/
theorem Line.Remembers.writeAll {ws : List Word} (h : d.Remembers z hs) (hok : d.Ok cap)
    (hw : writeAll cap d ws = .ok d') :
    d'.Remembers z (ws.reverse ++ hs) ∧ d'.Ok cap ∧ d'.size = d.size := by
  induction ws generalizing d hs with
  | nil =>
    cases hw
    exact ⟨h, hok, rfl⟩
  | cons x ws ih =>
    obtain ⟨d1, h1, hwrites, hok1⟩ := lineWrite_ok hok x
    simp only [Sys2Proof.Machine.writeAll, h1] at hw
    obtain ⟨hr, hok', hsize⟩ := ih (h.write hok hwrites) hok1 hw
    refine ⟨?_, hok', hsize.trans (lineWrite_size h1)⟩
    rw [List.reverse_cons, List.append_assoc]
    exact hr

/-- A line whose slots all hold `z` remembers nothing but `z`. -/
theorem Line.remembers_nil (hz : ∀ i, i < d.size → Memory.read d.buf i = z) : d.Remembers z [] :=
  fun _ ha => hz _ (lineIndex_lt d _ (by omega))

/-- A legal read answers the word of age `k`, the whole length for `k = 0` (rule R204). -/
theorem Line.Remembers.lineRead (h : d.Remembers z hs) (hok : d.Ok cap) {k : Nat} (hk : k < d.size) :
    lineRead cap d k = .ok (hs.getD ((if k = 0 then d.size else k) - 1) z) := by
  rw [lineRead_ok hok.size_le hk]
  have hc := hok.cursor_lt_size (by omega)
  split
  next h0 =>
    subst k
    rw [← lineIndex_size hc, ← h (d.size - 1) (by omega), Nat.sub_add_cancel hk]
  next h0 => rw [← h (k - 1) (by omega), Nat.sub_add_cancel (by omega)]

end

/-- The word of age `a` among words in the order of their writing, `z` where there are fewer. -/
theorem getD_reverse_of_age {α : Type} (ws : List α) (z : α) {a : Nat} (ha : 1 ≤ a) :
    ws.reverse.getD (a - 1) z = if a ≤ ws.length then ws.getD (ws.length - a) z else z := by
  split
  next hle =>
    rw [List.getD_eq_getElem?_getD, List.getD_eq_getElem?_getD, List.getElem?_reverse (by omega)]
    congr 2
    omega
  next hgt => exact List.getD_eq_default _ _ (by rw [List.length_reverse]; omega)

/-- Settles O32: by induction over the writes the line remembers them, newest first
(`Line.Remembers.writeAll`), and a read at offset `k` answers the word of age `k`. -/
theorem ageOfRead : Obligations.AgeOfRead := by
  intro cap d d' z ws k hok _ hz hw hk
  obtain ⟨hr, hok', hsize⟩ := (Line.remembers_nil hz).writeAll hok hw
  rw [List.append_nil] at hr
  rw [hr.lineRead hok' (hsize ▸ hk), hsize, getD_reverse_of_age ws z (by split <;> omega)]

end Sys2Proof.Machine

/-! # What one engine sample advances (rule R383)

Every line and every modulated all-pass is a ring of slots with a position. The proof follows the graph as
`engineSample_clear` does, with a tally of what has stepped so far. -/

namespace Sys2Proof.Machine

open Sys2Proof.Config (Params)

/-! ## Rings -/

/-- The slots of a line or of a modulated all-pass: the buffer, how many slots are in use, and the slot that is
written next. -/
structure Ring where
  buf : Memory
  len : Nat
  pos : Nat

def Line.ring (d : Line) : Ring := ⟨d.buf, d.size, d.cursor⟩

def Apm.ring (a : Apm) : Ring := ⟨a.buf, a.size + a.msize, a.wpos⟩

/-- `b` is the ring `a` after `n` writes: the position has moved by `n`, and no slot but those passed over has
changed. -/
structure Ring.Moves (n : Nat) (a b : Ring) : Prop where
  len : b.len = a.len
  pos : a.pos < a.len → b.pos = (a.pos + n) % a.len
  kept : a.pos < a.len → ∀ i, (∀ j, j < n → i ≠ (a.pos + j) % a.len) →
    Memory.read b.buf i = Memory.read a.buf i
  still : a.len = 0 → b.buf = a.buf

/-- A write changes no other index, whatever the form of the buffer. -/
theorem Memory.read_write_of_ne {i j : Nat} (h : j ≠ i) (m : Memory) (v : Word) :
    Memory.read (Memory.write m i v) j = Memory.read m j := by
  induction m with
  | nil =>
    unfold Memory.write
    split
    · rfl
    · exact if_neg h
  | cons e t ih =>
    obtain ⟨a, w⟩ := e
    unfold Memory.write
    split
    · split
      · rfl
      · exact if_neg h
    · split
      next hia =>
        have hja : j ≠ a := hia ▸ h
        split <;> simp only [Memory.read_cons, if_neg hja]
      · rw [Memory.read_cons, Memory.read_cons, ih]

section
variable {a b c : Ring}

theorem Ring.Moves.refl (a : Ring) : Ring.Moves 0 a a where
  len := rfl
  pos h := (Nat.mod_eq_of_lt h).symm
  kept _ _ _ := rfl
  still _ := rfl

theorem Ring.Moves.trans {n m : Nat} (h : Ring.Moves n a b) (h' : Ring.Moves m b c) :
    Ring.Moves (n + m) a c where
  len := h'.len.trans h.len
  pos ha := by
    have hb : b.pos < b.len := by rw [h.pos ha, h.len]; exact Nat.mod_lt _ (by omega)
    rw [h'.pos hb, h.pos ha, h.len, Nat.mod_add_mod, Nat.add_assoc]
  kept ha i hi := by
    have hb : b.pos < b.len := by rw [h.pos ha, h.len]; exact Nat.mod_lt _ (by omega)
    have hbi : ∀ j, j < m → i ≠ (b.pos + j) % b.len := fun j hj => by
      rw [h.pos ha, h.len, Nat.mod_add_mod, Nat.add_assoc]
      exact hi (n + j) (by omega)
    rw [h'.kept hb i hbi, h.kept ha i fun j hj => hi j (by omega)]
  still ha := (h'.still (h.len.trans ha)).trans (h.still ha)

/-- One write at the position of a ring that has slots. -/
theorem Ring.Moves.write (hl : a.len ≠ 0) (v : Word) :
    Ring.Moves 1 a ⟨Memory.write a.buf a.pos v, a.len, (a.pos + 1) % a.len⟩ where
  len := rfl
  pos _ := rfl
  kept ha i hi := by
    have hne := hi 0 Nat.one_pos
    rw [Nat.add_zero, Nat.mod_eq_of_lt ha] at hne
    exact Memory.read_write_of_ne hne _ _
  still h := absurd h hl

/-- A ring without slots stays, however often it is written. -/
theorem Ring.Moves.of_len_zero (h : a.len = 0) (n : Nat) : Ring.Moves n a a where
  len := rfl
  pos ha := by omega
  kept _ _ _ := rfl
  still _ := rfl

end

/-! ## The primitive operations -/

/-- What a write into a buffer answers. -/
theorem bufWrite_ensures (cap : Nat) (m : Memory) (i : Nat) (v : Word) :
    Ensures (bufWrite cap m i v) fun b => b = Memory.write m i v := by
  unfold bufWrite
  split
  · exact .ok rfl
  · exact .error _

theorem lineWrite_moves (cap : Nat) (d : Line) (x : Word) :
    Ensures (lineWrite cap d x) fun d' => d.ring.Moves 1 d'.ring := by
  unfold lineWrite
  split
  next h0 => exact .ok (.of_len_zero h0 1)
  next h0 =>
    split
    · exact .error _
    · refine (bufWrite_ensures _ _ _ _).bind fun b hb => .ok ?_
      subst hb
      exact .write h0 x

theorem lineProcess_moves (cap : Nat) (d : Line) (x : Word) :
    Ensures (lineProcess cap d x) fun r => d.ring.Moves 1 r.2.ring := by
  unfold lineProcess
  split
  next h0 => exact .ok (.of_len_zero h0 1)
  next => exact .skip fun _ => (lineWrite_moves cap d x).bind fun _ hd => .ok hd

theorem ap1Process_moves (cap : Nat) (a : Ap1) (x : Word) :
    Ensures (ap1Process cap a x) fun r => a.line.ring.Moves 1 r.2.line.ring :=
  .skip fun _ => (lineWrite_moves cap a.line _).bind fun _ hd => .ok hd

theorem combProcess_moves (cap : Nat) (k : Comb) (x : Word) :
    Ensures (combProcess cap k x) fun r => k.line.ring.Moves 1 r.2.line.ring :=
  .skip fun _ => (lineWrite_moves cap k.line _).bind fun _ hd => .ok hd

theorem apmProcess_moves (cap : Nat) (a : Apm) (x m : Word) :
    Ensures (apmProcess cap a x m) fun r => a.ring.Moves 1 r.2.ring := by
  unfold apmProcess
  split
  · exact .error _
  next h0 =>
    split
    · exact .error _
    · refine .skip fun _ => (bufWrite_ensures _ _ _ _).bind fun b hb => .ok ?_
      subst hb
      have hl : a.ring.len ≠ 0 := by simp only [Apm.ring]; omega
      exact .write hl _

/-! ## A channel -/

/-- `y` is the channel `x` after each line in `ls` and each modulated all-pass in `as` has been written, as
often as it is listed there. -/
structure Chan.Moves (ls : List LineRole) (as : List ApmRole) (x y : Chan) : Prop where
  line : ∀ r, (x.line r).ring.Moves (ls.count r) (y.line r).ring
  apm : ∀ r, (x.apm r).ring.Moves (as.count r) (y.apm r).ring

section
variable {P : Params} {ls : List LineRole} {as : List ApmRole} {x y z : Chan}

theorem Chan.Moves.refl (x : Chan) : Chan.Moves [] [] x x := ⟨fun _ => .refl _, fun _ => .refl _⟩

theorem Chan.Moves.of_eq (h : x.Moves ls as y) (hl : ∀ r, z.line r = y.line r)
    (ha : ∀ r, z.apm r = y.apm r) : x.Moves ls as z :=
  ⟨fun r => hl r ▸ h.line r, fun r => ha r ▸ h.apm r⟩

theorem Chan.Moves.setLine (h : x.Moves ls as y) (r : LineRole) {d : Line}
    (hd : (y.line r).ring.Moves 1 d.ring) : x.Moves (r :: ls) as (y.setLine r d) where
  line q := by
    rw [Chan.line_setLine]
    split
    next hq =>
      subst q
      rw [List.count_cons_self]
      exact (h.line r).trans hd
    next hq =>
      rw [List.count_cons_of_ne (Ne.symm hq)]
      exact h.line q
  apm q := by
    rw [Chan.apm_setLine]
    exact h.apm q

theorem Chan.Moves.setAp1 (h : x.Moves ls as y) (r : Ap1Role) {a : Ap1}
    (ha : (y.ap1 r).line.ring.Moves 1 a.line.ring) : x.Moves (r.line :: ls) as (y.setAp1 r a) :=
  (h.setLine r.line (Chan.ap1_line y r ▸ ha)).of_eq
    (fun q => by rw [Chan.line_setAp1, Chan.line_setLine])
    (fun q => by rw [Chan.apm_setAp1, Chan.apm_setLine])

theorem Chan.Moves.setApm (h : x.Moves ls as y) (r : ApmRole) {a : Apm}
    (ha : (y.apm r).ring.Moves 1 a.ring) : x.Moves ls (r :: as) (y.setApm r a) where
  line q := by
    rw [Chan.line_setApm]
    exact h.line q
  apm q := by
    rw [Chan.apm_setApm]
    split
    next hq =>
      subst q
      rw [List.count_cons_self]
      exact (h.apm r).trans ha
    next hq =>
      rw [List.count_cons_of_ne (Ne.symm hq)]
      exact h.apm q

theorem Chan.Moves.setIir1 (h : x.Moves ls as y) (r : Iir1Role) (f : Iir1) :
    x.Moves ls as (y.setIir1 r f) := h.of_eq (by simp) (by simp)

theorem Chan.Moves.setBq (h : x.Moves ls as y) (r : BqRole) (q : Bq) : x.Moves ls as (y.setBq r q) :=
  h.of_eq (by simp) (by simp)

/-! ## The stages of a channel -/

theorem erShape_moves (h : x.Moves ls as y) (v : Word) : x.Moves ls as (erShape y v).2 :=
  h.of_eq (fun _ => rfl) (fun _ => rfl)

theorem dcStage_moves (h : x.Moves ls as y) (u : Word) : x.Moves ls as (dcStage y u).2 :=
  h.of_eq (fun _ => rfl) (fun _ => rfl)

theorem crossFilter_moves (h : x.Moves ls as y) (v : Word) : x.Moves ls as (crossFilter y v).2 :=
  h.of_eq (fun _ => rfl) (fun _ => rfl)

theorem bassStage_moves (h : x.Moves ls as y) (b q : Word) : x.Moves ls as (bassStage b y q).2 :=
  h.of_eq (fun _ => rfl) (fun _ => rfl)

theorem erStore_moves (h : x.Moves ls as y) (a : Word) :
    Ensures (erStore P y a) fun r => x.Moves (.dl .erTap :: ls) as r.2 :=
  (lineWrite_moves _ _ a).bind fun _ hd => .ok (h.setLine (.dl .erTap) hd)

theorem erCross_moves (h : x.Moves ls as y) (t : Word) :
    Ensures (erCross P y t) fun r => x.Moves (.erXap :: .dl .erXdelay :: ls) as r.2 :=
  (lineProcess_moves _ _ t).bind fun d hd => (ap1Process_moves _ _ d.1).bind fun _ ha =>
    .ok ((h.setLine (.dl .erXdelay) hd).setAp1 .erXap ha)

theorem crossStore_moves (h : x.Moves ls as y) (p : Word) :
    Ensures (crossStore P y p) fun r => x.Moves (.dl .crossDelay :: ls) as r.2 :=
  (lineWrite_moves _ _ p).bind fun _ hd => .ok (h.setLine (.dl .crossDelay) hd)

theorem dampStage_moves (h : x.Moves ls as y) (m b : Word) :
    Ensures (dampStage P m y b) fun r => x.Moves (.dl .dampDelay :: ls) (.dampAp2 :: .dampAp1 :: as) r.2 :=
  (apmProcess_moves _ _ _ m).bind fun a ha => (apmProcess_moves _ _ a.1 m).bind fun a' ha' =>
    (lineProcess_moves _ _ a'.1).bind fun _ hd =>
      .ok ((((h.setIir1 .dampLpf (iir1Process y.dampLpf b).2).setApm .dampAp1 ha).setApm .dampAp2 ha').setLine
        (.dl .dampDelay) hd)

/-- AP2_PROCESS inside a channel (rule R264). -/
theorem ap2Process_moves (h : x.Moves ls as y) (v : Word) :
    Ensures (ap2Process P y.cbassAp2 v) fun r =>
      x.Moves (.cbassAp2S1 :: .cbassAp2S0 :: ls) as { y with cbassAp2 := r.2 } :=
  (ap1Process_moves _ _ v).bind fun a ha => (ap1Process_moves _ _ a.1).bind fun _ hb =>
    .ok ((h.setAp1 .cbassAp2S0 ha).setAp1 .cbassAp2S1 hb)

/-- AP3M_PROCESS inside a channel (rule R265). -/
theorem ap3mProcess_moves (h : x.Moves ls as y) (v m : Word) :
    Ensures (ap3mProcess P y.cbassAp3 v m) fun r =>
      x.Moves (.cbassAp3S2 :: .cbassAp3S0 :: ls) (.cbassAp3S1 :: as) { y with cbassAp3 := r.2 } :=
  (ap1Process_moves _ _ v).bind fun a ha => (apmProcess_moves _ _ a.1 m).bind fun b hb =>
    (ap1Process_moves _ _ b.1).bind fun _ hc =>
      .ok (((h.setAp1 .cbassAp3S0 ha).setApm .cbassAp3S1 hb).setAp1 .cbassAp3S2 hc)

theorem cbassStage_moves (h : x.Moves ls as y) (m v : Word) :
    Ensures (cbassStage P m y v) fun r =>
      x.Moves (.cbassAp3S2 :: .cbassAp3S0 :: .dl .cbassD2 :: .cbassAp2S1 :: .cbassAp2S0 :: .dl .cbassD1 :: ls)
        (.cbassAp3S1 :: as) r.2 := by
  refine (lineProcess_moves _ _ v).bind fun d1 hd1 => ?_
  refine (ap2Process_moves (h.setLine (.dl .cbassD1) hd1) d1.1).bind fun a2 h2 => ?_
  refine (lineProcess_moves _ _ a2.1).bind fun d2 hd2 => ?_
  exact (ap3mProcess_moves (h2.setLine (.dl .cbassD2) hd2) d2.1 m).bind fun a3 h3 => .ok h3

theorem combStage_moves (h : x.Moves ls as y) (k : Word) :
    Ensures (combStage P y k) fun r => x.Moves (.comb :: ls) as r.2 :=
  (combProcess_moves _ _ k).bind fun c hc =>
    .ok ((h.setLine .comb (d := c.2.line) hc).of_eq (fun _ => rfl) (fun _ => rfl))

theorem outStage_moves (h : x.Moves ls as y) (z : Word) :
    Ensures (outStage P y z) fun r => x.Moves (.dl .outDelay :: ls) as r.2 :=
  (lineProcess_moves _ _ _).bind fun _ hd =>
    .ok ((h.setBq .outLpf (bqProcess y.outLpf z).2).setLine (.dl .outDelay) hd)

theorem preWetStage_moves (h : x.Moves ls as y) (v : Word) :
    Ensures (preWetStage P y v) fun r => x.Moves (.dl .preWet :: ls) as r.2 :=
  (lineProcess_moves _ _ v).bind fun _ hd => .ok (h.setLine (.dl .preWet) hd)

theorem preDryStage_moves (h : x.Moves ls as y) (v : Word) :
    Ensures (preDryStage P y v) fun r => x.Moves (.dl .preDry :: ls) as r.2 :=
  (lineProcess_moves _ _ v).bind fun _ hd => .ok (h.setLine (.dl .preDry) hd)

theorem upStage_moves (h : x.Moves ls as y) (factor j : Nat) (u : Word) :
    Ensures (upStage factor j y u) fun r => x.Moves ls as r.2 :=
  .skip fun _ => .ok (h.setBq .osUp _)

theorem downStage_moves (h : x.Moves ls as y) (factor : Nat) (z : Word) :
    Ensures (downStage factor y z) fun r => x.Moves ls as r.2 :=
  .skip fun _ => .ok (h.setBq .osDown _)

end

/-! ## The noise source and the oscillators -/

/-- `m` is the noise source `n` after `k` draws (rule R300). -/
def Noise.Moves (k : Nat) (n m : Noise) : Prop := n.npos < noiseLen → m.npos = (n.npos + k) % noiseLen

/-- `m` is the oscillator `l` after `k` steps (rule R310). -/
def Lfo.Moves (k : Nat) (l m : Lfo) : Prop := l.count < lfoRenorm → m.count = (l.count + k) % lfoRenorm

theorem noiseNext_moves {k : Nat} {n0 n : Noise} (h : n0.Moves k n) :
    Ensures (noiseNext n) fun r => n0.Moves (k + 1) r.2 := by
  unfold noiseNext
  split
  · refine .ok fun h0 => ?_
    show (n.npos + 1) % noiseLen = _
    rw [h h0, Nat.mod_add_mod, Nat.add_assoc]
  · exact .error _

theorem lfoStep_moves {k : Nat} {l0 l : Lfo} (h : l0.Moves k l) : l0.Moves (k + 1) (lfoStep l).2 := by
  intro h0
  have hl : l.count = (l0.count + k) % lfoRenorm := h h0
  have hstep : (lfoStep l).2.count = (l.count + 1) % lfoRenorm := by
    have hlt : l.count < lfoRenorm := hl ▸ Nat.mod_lt _ (Nat.two_pow_pos 10)
    unfold lfoStep
    simp only
    split
    next hr => rw [hr, Nat.mod_self]
    next hr =>
      have hlt' : l.count + 1 < lfoRenorm := by omega
      exact (Nat.mod_eq_of_lt hlt').symm
  rw [hstep, hl, Nat.mod_add_mod, Nat.add_assoc]

/-- The diffusion sections `is` step in order, each with one draw (rule R373). -/
theorem diffuse_moves {P : Params} {k : Nat} {n0 n : Noise} {x y : Chan} {ls : List LineRole}
    {as : List ApmRole} {v : Vector Apm 10} (is : List (Fin 10)) (h : x.Moves ls as { y with diff := v })
    (hn : n0.Moves k n) (w : Word) :
    Ensures (diffuse P is v n w) fun r =>
      x.Moves ls ((is.map ApmRole.diff).reverse ++ as) { y with diff := r.2.1 } ∧
        n0.Moves (k + is.length) r.2.2 := by
  induction is generalizing v n w k as with
  | nil => exact .ok ⟨h, hn⟩
  | cons i is ih =>
    refine (noiseNext_moves hn).bind fun m hm => (apmProcess_moves _ _ w m.1).bind fun a ha => ?_
    refine (ih (h.setApm (.diff i) ha) hm a.1).mono fun r hr => ?_
    rw [List.map_cons, List.reverse_cons, List.append_assoc, List.length_cons, Nat.add_comm is.length,
      ← Nat.add_assoc]
    exact hr

/-! ## The state -/

/-- What has stepped since a state: on each channel the lines and the modulated all-passes, as often as they are
listed, the noise source and the oscillators. -/
structure Tally where
  lines : List LineRole
  apms : List ApmRole
  draws : Nat
  turns : Nat

/-- `t` is the state `s` after the steps of the tally. -/
structure Moved (s : State) (T : Tally) (t : State) : Prop where
  chan : ∀ c, (s.chan c).Moves T.lines T.apms (t.chan c)
  noise : s.noise.Moves T.draws t.noise
  lfo : ∀ r, (s.lfo r).Moves T.turns (t.lfo r)
  factor : t.eng.factor = s.eng.factor

/-- The lines of the late network, the last one first (rules R374 to R379). -/
def lateLines : List LineRole :=
  [.dl .outDelay, .comb, .cbassAp3S2, .cbassAp3S0, .dl .cbassD2, .cbassAp2S1, .cbassAp2S0, .dl .cbassD1,
    .dl .dampDelay, .dl .crossDelay]

/-- The modulated all-passes, the last one first (rules R373, R376 and R377). -/
def lateApms : List ApmRole := [.cbassAp3S1, .dampAp2, .dampAp1] ++ diffRoles.reverse

/-- The lines before the late network, the last one first (rules R350 and R390). -/
def headLines : List LineRole := [.erXap, .dl .erXdelay, .dl .erTap, .dl .preDry, .dl .preWet]

/-- A sub-step of the late network: its lines and all-passes once, ten draws on each channel, one turn of the
oscillators. -/
def Tally.late (T : Tally) : Tally := ⟨lateLines ++ T.lines, lateApms ++ T.apms, T.draws + 20, T.turns + 1⟩

section
variable {P : Params} {s0 s : State} {T : Tally}

/-- A stage that both channels run (rule R14). -/
theorem bothChans_moved {f : Ch → Chan → Word → Except Fault (Word × Chan)} {ls : List LineRole}
    {as : List ApmRole} (h : Moved s0 T s)
    (hf : ∀ c x y v, Chan.Moves T.lines T.apms x y → Ensures (f c y v) fun r => x.Moves ls as r.2)
    (v : Pair) :
    Ensures (bothChans f s v) fun r => Moved s0 ⟨ls, as, T.draws, T.turns⟩ r.2 :=
  (hf .left s0.left s.left v.l (h.chan .left)).bind fun _ hl =>
    (hf .right s0.right s.right v.r (h.chan .right)).bind fun _ hr =>
      .ok { chan := fun c => by cases c <;> assumption
            noise := h.noise
            lfo := fun r => by cases r; exacts [h.lfo .lfo1, h.lfo .lfo2]
            factor := h.factor }

theorem erStep_moved (h : Moved s0 T s) (x : Pair) :
    Ensures (erStep P s x) fun r =>
      Moved s0 ⟨.erXap :: .dl .erXdelay :: .dl .erTap :: T.lines, T.apms, T.draws, T.turns⟩ r.2 :=
  (bothChans_moved h (fun _ _ _ v hx => .ok (erShape_moves hx v)) x).bind fun _ ha =>
    .skip fun _ => .skip fun _ =>
      (bothChans_moved ha (fun _ _ _ v hx => erStore_moves hx v) _).bind fun _ hb =>
        (bothChans_moved hb (fun _ _ _ v hx => erCross_moves hx v) _).bind fun _ hr => .ok hr

theorem modStep_moved (h : Moved s0 T s) :
    Moved s0 ⟨T.lines, T.apms, T.draws, T.turns + 1⟩ (modStep s).2 where
  chan c := by cases c; exacts [h.chan .left, h.chan .right]
  noise := h.noise
  lfo r := by cases r; exacts [lfoStep_moves (h.lfo .lfo1), lfoStep_moves (h.lfo .lfo2)]
  factor := h.factor

theorem diffuseStage_moved (h : Moved s0 T s) (p : Pair) :
    Ensures (diffuseStage P s p) fun r =>
      Moved s0 ⟨T.lines, diffRoles.reverse ++ T.apms, T.draws + 20, T.turns⟩ r.2 :=
  (diffuse_moves sections (h.chan .left) h.noise p.l).bind fun l hl =>
    (diffuse_moves sections (h.chan .right) hl.2 p.r).bind fun r hr =>
      .ok { chan := fun c => by cases c; exacts [hl.1, hr.1]
            noise := hr.2
            lfo := fun r => by cases r; exacts [h.lfo .lfo1, h.lfo .lfo2]
            factor := h.factor }

theorem crossStage_moved (h : Moved s0 T s) (p : Pair) :
    Ensures (crossStage P s p) fun r =>
      Moved s0 ⟨.dl .crossDelay :: T.lines, T.apms, T.draws, T.turns⟩ r.2 :=
  .skip fun _ => .skip fun _ =>
    (bothChans_moved h (fun _ _ _ v hx => crossStore_moves hx v) p).bind fun _ hw =>
      (bothChans_moved hw (fun _ _ _ v hx => .ok (crossFilter_moves hx v)) _).bind fun _ hf => .ok hf

theorem lateStep_moved (h : Moved s0 T s) (u : Pair) :
    Ensures (lateStep P s u) fun r => Moved s0 T.late r.2 := by
  refine (bothChans_moved (modStep_moved h) (fun _ _ _ v hx => .ok (dcStage_moves hx v)) u).bind fun p hp => ?_
  refine (diffuseStage_moved hp _).bind fun d hd => ?_
  refine (crossStage_moved hd _).bind fun q hq => ?_
  refine (bothChans_moved hq (fun _ _ _ v hx => .ok (bassStage_moves hx _ v)) _).bind fun b hb => ?_
  refine (bothChans_moved hb (fun c _ _ v hx => dampStage_moves hx (sgn c _) v) _).bind fun g hg => ?_
  refine (bothChans_moved hg (fun c _ _ v hx => cbassStage_moves hx (sgn c _) v) _).bind fun k hk => ?_
  refine (bothChans_moved hk (fun _ _ _ v hx => combStage_moves hx v) _).bind fun z hz => ?_
  exact bothChans_moved hz (fun _ _ _ v hx => outStage_moves hx v) _

theorem subStep_moved (h : Moved s0 T s) (u : Pair) (j : Nat) :
    Ensures (subStep P s u j) fun r => Moved s0 T.late r.2 :=
  (bothChans_moved h (fun _ _ _ v hx => upStage_moves hx _ j v) u).bind fun _ hw =>
    (lateStep_moved hw _).bind fun _ hz => bothChans_moved hz (fun _ _ _ v hx => downStage_moves hx _ v) _

theorem subSteps_moved (h : Moved s0 T s) (u : Pair) (n j : Nat) (last : Option Pair) :
    Ensures (subSteps P u n j last s) fun r => Moved s0 (Tally.late^[n] T) r.2 := by
  induction n generalizing j last s T with
  | zero =>
    cases last with
    | none => exact .error _
    | some y => exact .ok h
  | succ n ih => exact (subStep_moved h u j).bind fun _ hr => ih hr _ _

/-- The late network makes `F` sub-steps, for `F = 1` too (rule R382). -/
theorem lateOsStep_moved (h : Moved s0 T s) (u : Pair) :
    Ensures (lateOsStep P s u) fun r => Moved s0 (Tally.late^[s0.eng.factor] T) r.2 := by
  unfold lateOsStep
  rw [h.factor]
  split
  next h1 =>
    rw [h1]
    exact lateStep_moved h u
  · exact subSteps_moved h u _ 0 none

theorem Moved.refl (s : State) : Moved s ⟨[], [], 0, 0⟩ s where
  chan _ := .refl _
  noise h := (Nat.mod_eq_of_lt h).symm
  lfo _ h := (Nat.mod_eq_of_lt h).symm
  factor := rfl

/-- One engine sample: the lines before the late network once, then `F` sub-steps (rule R390). -/
theorem engineSample_moved (P : Params) (s : State) (x : Pair) :
    Ensures (engineSample P s x) fun r =>
      Moved s (Tally.late^[s.eng.factor] ⟨headLines, [], 0, 0⟩) r.2 :=
  (bothChans_moved (.refl s) (fun _ _ _ v hx => preWetStage_moves hx v) x).bind fun _ hw =>
    (bothChans_moved hw (fun _ _ _ v hx => preDryStage_moves hx v) x).bind fun _ hd =>
      (erStep_moved hd _).bind fun _ hr => (lateOsStep_moved hr _).bind fun _ hl => .ok hl

end

/-! ## Reading the tally -/

section
variable (n : Nat) (T : Tally)

theorem count_lines_late (r : LineRole) :
    (Tally.late^[n] T).lines.count r = n * lateLines.count r + T.lines.count r := by
  induction n generalizing T with
  | zero => simp
  | succ n ih =>
    rw [Function.iterate_succ_apply, ih, Tally.late, List.count_append]
    ring

theorem count_apms_late (r : ApmRole) :
    (Tally.late^[n] T).apms.count r = n * lateApms.count r + T.apms.count r := by
  induction n generalizing T with
  | zero => simp
  | succ n ih =>
    rw [Function.iterate_succ_apply, ih, Tally.late, List.count_append]
    ring

theorem draws_late : (Tally.late^[n] T).draws = T.draws + 20 * n := by
  induction n generalizing T with
  | zero => rfl
  | succ n ih =>
    rw [Function.iterate_succ_apply, ih, Tally.late]
    ring

theorem turns_late : (Tally.late^[n] T).turns = T.turns + n := by
  induction n generalizing T with
  | zero => rfl
  | succ n ih =>
    rw [Function.iterate_succ_apply, ih, Tally.late]
    ring

end

/-- Every line is written once: in a sub-step of the late network, or before it. -/
theorem count_lateLines_headLines (c : Ch) (r : LineRole) :
    ((c, r) ∈ lateTouched.lines → lateLines.count r = 1 ∧ headLines.count r = 0) ∧
      ((c, r) ∉ lateTouched.lines → lateLines.count r = 0 ∧ headLines.count r = 1) := by
  cases c <;> rcases r with ⟨_ | _ | _ | _ | _ | _ | _ | _ | _⟩ | _ | _ | _ | _ | _ | _ <;> decide

/-- Every modulated all-pass is written once in a sub-step. -/
theorem count_lateApms (r : ApmRole) : lateApms.count r = 1 := by
  cases r with
  | diff i => revert i; decide
  | _ => decide

/-- How often one engine sample writes a line. -/
theorem count_lines_sample (F : Nat) (c : Ch) (r : LineRole) :
    (Tally.late^[F] ⟨headLines, [], 0, 0⟩).lines.count r =
      if (c, r) ∈ lateTouched.lines then F else 1 := by
  rw [count_lines_late]
  split
  next h =>
    obtain ⟨hl, hh⟩ := (count_lateLines_headLines c r).1 h
    rw [hl, hh, Nat.mul_one, Nat.add_zero]
  next h =>
    obtain ⟨hl, hh⟩ := (count_lateLines_headLines c r).2 h
    rw [hl, hh, Nat.mul_zero, Nat.zero_add]

theorem count_apms_sample (F : Nat) (r : ApmRole) :
    (Tally.late^[F] ⟨headLines, [], 0, 0⟩).apms.count r = F := by
  rw [count_apms_late, count_lateApms, Nat.mul_one]
  rfl

theorem Apm.Ok.wpos_lt {cap : Nat} {a : Apm} (h : a.Ok cap) (hs : 1 ≤ a.size) :
    a.wpos < a.size + a.msize := by
  obtain ⟨_, _, _, hw, _⟩ := h.window.resolve_left fun h0 => by omega
  exact hw

/-- Settles O53: the sample completes (`engineSample_succeeds`), and the tally of what it steps
(`engineSample_moved`) gives each count and the slots passed over. -/
theorem engineSampleStepCounts : Obligations.EngineSampleStepCounts := by
  intro a b s h hactive
  obtain ⟨r, hr, _⟩ := engineSample_succeeds (.refl h hactive) ⟨a, b⟩
  have hmoved := engineSample_moved params s ⟨a, b⟩ r hr
  have hline := fun c q => count_lines_sample s.eng.factor c q ▸ (hmoved.chan c).line q
  have hapm := fun c q => count_apms_sample s.eng.factor q ▸ (hmoved.chan c).apm q
  have hwpos := fun c q => (h.apm_ok c q).wpos_lt ((h.ready hactive c).apm_size q).1
  refine ⟨r.2.yields r.1.words, ?exec, ?noise, ?lfo, ?cursor, ?wpos, ?lineKept, ?apmKept⟩
  case exec =>
    show execEngineSample a b s = _
    rw [execEngineSample, needActive_of_active hactive, bind_ok, hr, bind_ok, outcomeOf_ok]
  case noise =>
    have hn := hmoved.noise h.noise_pos
    rw [draws_late, Nat.zero_add] at hn
    exact hn
  case lfo =>
    intro q
    have hl := hmoved.lfo q (h.lfo_count q)
    rw [turns_late, Nat.zero_add] at hl
    rw [State.lfo_yields]
    exact hl
  case cursor =>
    intro c q hs
    rw [State.chan_yields]
    exact (hline c q).pos ((h.line_ok c q).cursor_lt_size (Nat.one_le_iff_ne_zero.mp hs))
  case wpos =>
    intro c q
    rw [State.chan_yields]
    exact (hapm c q).pos (hwpos c q)
  case lineKept =>
    intro c q i hi
    rw [State.chan_yields]
    by_cases h0 : ((s.chan c).line q).size = 0
    · exact congrArg (Memory.read · i) ((hline c q).still h0)
    · exact (hline c q).kept ((h.line_ok c q).cursor_lt_size h0) i fun j hj => (hi j hj).resolve_left h0
  case apmKept =>
    intro c q i hi
    rw [State.chan_yields]
    exact (hapm c q).kept (hwpos c q) i hi

end Sys2Proof.Machine

/-! # The first-order filter (rule R220) -/

namespace Sys2Proof.Machine

section
variable {s : State} {f : Iir1}

/-- A part of a channel that no first-order filter is in stays, whichever filter is replaced. -/
theorem State.part_setIir1 {α : Type} (part : Chan → α) (hpart : ∀ x q, part (x.setIir1 q f) = part x)
    (r : Iir1Ref) (c : Ch) : part ((s.setIir1 r f).chan c) = part (s.chan c) := by
  cases r with
  | chan e q => exact State.part_setChan part (by rintro rfl; exact hpart _ q)
  | lfo1 => rfl
  | lfo2 => rfl

/-- A first-order filter replaced by one with the same coefficients: nothing changes but its stream state. -/
theorem Unchanged.setIir1 {r : Iir1Ref} (h : f.clear = (s.iir1 r).clear) :
    Unchanged { iir1s := [r] } s (s.setIir1 r f) where
  config := (Keeps.setIir1 h).config
  mode := State.mode_setIir1 ..
  noise_tab := by rw [State.noise_setIir1]
  port := State.port_setIir1 ..
  reply := State.reply_setIir1 ..
  line c q _ := State.part_setIir1 (·.line q) (fun _ _ => Chan.line_setIir1 ..) r c
  apm c q _ := State.part_setIir1 (·.apm q) (fun _ _ => Chan.apm_setIir1 ..) r c
  iir1 q hq := by rw [State.iir1_setIir1, if_neg (List.ne_of_not_mem_cons hq)]
  bq c q _ := State.part_setIir1 (·.bq q) (fun _ _ => Chan.bq_setIir1 ..) r c
  dcc c _ := State.part_setIir1 (·.dccut) (fun _ _ => Chan.dccut_setIir1 ..) r c
  lfo q _ := State.lfo_setIir1 ..
  noise _ := by rw [State.noise_setIir1]

end

theorem State.iir1_setIir1_yields (s : State) (r : Iir1Ref) (f : Iir1) (ws : List Word) :
    ((s.setIir1 r f).yields ws).iir1 r = f := by
  rw [State.iir1_yields, State.iir1_setIir1, if_pos rfl]

/-- IIR1_PROCESS has no precondition: it completes on every filter. -/
theorem exec_iir1Process (s : State) {i : InstId} {r : Iir1Ref} (h : iir1OfId i = some r) (x : Word) :
    exec (.iir1Process i x) s =
      .next ((s.setIir1 r (iir1Process (s.iir1 r) x).2).yields [(iir1Process (s.iir1 r) x).1]) := by
  show execIir1Process i x s = _
  simp only [execIir1Process, h, named_some, bind_ok, outcomeOf_ok]

/-- Settles O33: the filter named steps (`iir1Process_steps`), and replacing it changes nothing else
(`Unchanged.setIir1`). -/
theorem iir1ProcessResult : Obligations.Iir1ProcessResult := by
  intro i r x s hi
  refine ⟨_, _, exec_iir1Process s hi x, rfl, ?_, (Unchanged.setIir1 (iir1Process_clear _ x)).yields _⟩
  rw [State.iir1_setIir1_yields]
  exact iir1Process_steps (s.iir1 r) x

end Sys2Proof.Machine

/-! # The derived coefficients of a channel (rules R221, R222, R241, R242 and R405 to R412) -/

namespace Sys2Proof.Machine

open Sys2Proof.Config (Params TopoCh)

section
variable (P : Params) (p : ParamVec)

/-! ## Filters -/

section
variable (fc fs : DWord)

theorem iir1Lpf_coefficients (f : Iir1) :
    (iir1Lpf P fc fs f).b0 = narrow (sub64 one64 (poleOf P fc fs)) ∧
    (iir1Lpf P fc fs f).b1 = 0 ∧
    (iir1Lpf P fc fs f).a1 = narrow (poleOf P fc fs) := ⟨rfl, rfl, rfl⟩

theorem iir1Hpf_coefficients (f : Iir1) :
    (iir1Hpf P fc fs f).b0 = narrow (div64 (add64 one64 (poleOf P fc fs)) two64) ∧
    (iir1Hpf P fc fs f).b1 = neg32 (iir1Hpf P fc fs f).b0 ∧
    (iir1Hpf P fc fs f).a1 = narrow (poleOf P fc fs) := ⟨rfl, rfl, rfl⟩

theorem bqLpf_coefficients (q : Bq) :
    (bqLpf P fc fs q).b0 =
      narrow (div64 (div64 (sub64 one64 (bqDesign P fc fs).cw) two64) (bqDesign P fc fs).a0) ∧
    (bqLpf P fc fs q).b1 = narrow (div64 (sub64 one64 (bqDesign P fc fs).cw) (bqDesign P fc fs).a0) ∧
    (bqLpf P fc fs q).b2 = (bqLpf P fc fs q).b0 ∧
    (bqLpf P fc fs q).a1 =
      narrow (div64 (mul64 (neg64 two64) (bqDesign P fc fs).cw) (bqDesign P fc fs).a0) ∧
    (bqLpf P fc fs q).a2 = narrow (div64 (sub64 one64 (bqDesign P fc fs).alpha) (bqDesign P fc fs).a0) :=
  ⟨rfl, rfl, rfl, rfl, rfl⟩

theorem bqAllpass_coefficients (q : Bq) :
    (bqAllpass P fc fs q).b0 =
      narrow (div64 (sub64 one64 (bqDesign P fc fs).alpha) (bqDesign P fc fs).a0) ∧
    (bqAllpass P fc fs q).b1 =
      narrow (div64 (mul64 (neg64 two64) (bqDesign P fc fs).cw) (bqDesign P fc fs).a0) ∧
    (bqAllpass P fc fs q).b2 =
      narrow (div64 (add64 one64 (bqDesign P fc fs).alpha) (bqDesign P fc fs).a0) ∧
    (bqAllpass P fc fs q).a1 = (bqAllpass P fc fs q).b1 ∧
    (bqAllpass P fc fs q).a2 = (bqAllpass P fc fs q).b0 := ⟨rfl, rfl, rfl, rfl, rfl⟩

end

/-! ## All-passes, combs and taps: the decay is that of the length just set -/

section
variable (fsi : DWord)

theorem setLateAp1_coefficients (ts : DWord) (cap : Nat) (g : Word) (a : Ap1) :
    (setLateAp1 P p fsi ts cap g a).g = g ∧
    (setLateAp1 P p fsi ts cap g a).decay =
      decayOf P p.rt60 fsi (setLateAp1 P p fsi ts cap g a).line.size := ⟨rfl, rfl⟩

theorem setApmRegs_coefficients (ts tm : DWord) (g : Word) (cap : Nat) (a : Apm) :
    (setApmRegs P p fsi ts tm g cap a).g = g ∧
    (setApmRegs P p fsi ts tm g cap a).decay =
      decayOf P p.rt60 fsi (setApmRegs P p fsi ts tm g cap a).size := ⟨rfl, rfl⟩

theorem setComb_fb (ts : DWord) (cap : Nat) (k : Comb) :
    (setComb P p fsi ts cap k).fb = decayOf P p.rt60 fsi (setComb P p fsi ts cap k).line.size := rfl

/-- A tap beyond the list of `TOPO` has gain 0 (rule R409). -/
theorem deriveTap_gain (t : TopoCh) (k : Nat) :
    (deriveTap P p t k).gain = (t.erTaps[k]?.map Prod.snd).getD 0 := by
  unfold deriveTap
  cases t.erTaps[k]? <;> rfl

/-! ## A channel -/

theorem deriveChan_tap (t : TopoCh) (x : Chan) (k : Fin 18) :
    (deriveChan P p fsi t x).taps[k] = deriveTap P p t k := by
  simp [deriveChan]

theorem deriveChan_diff (t : TopoCh) (x : Chan) (i : Fin 10) :
    (deriveChan P p fsi t x).diff[i] =
      setApmRegs P p fsi t.diffS[i] t.diffModS[i] P.topo.diffG[i] P.capDiff[i] x.diff[i] := by
  simp [deriveChan]

end

end

/-- For a vector in range, DERIVE writes the formulas' registers into each channel (rule R403). -/
theorem derive_chan_of_inRange (P : Params) {p : ParamVec} (h : inRange p = true) (s : State) (c : Ch) :
    (derive P p s).chan c = deriveChan P p (deriveEngine P p).fsi (P.topo.ch c) (s.chan c) := by
  simp only [derive, h, if_true]
  cases c <;> rfl

/-- Settles O58: in range a channel is the one of `deriveChan`, each of whose parts is set by one of the
formulas above. -/
theorem derivedCoefficients : Obligations.DerivedCoefficients := by
  intro P p s c h x t rate fsi
  have hx : x = deriveChan P p fsi t (s.chan c) := derive_chan_of_inRange P h s c
  clear_value x
  subst hx
  refine ⟨?taps, ?erXap, ?ap2S0, ?ap2S1, ?ap3S0, ?ap3S2, ?comb, ?diff, ?damp1, ?damp2, ?ap3S1,
    ?erLpf, ?erHpf, ?crossLpf, ?dampLpf, ?bassAp, ?bassLpf, ?outLpf, ?osUp, ?osDown, ?dccut⟩
  case taps =>
    intro k
    rw [deriveChan_tap, deriveTap_gain]
  case diff =>
    intro i
    rw [deriveChan_diff]
    exact setApmRegs_coefficients ..
  case erXap => exact ⟨rfl, rfl⟩
  case ap2S0 | ap2S1 | ap3S0 | ap3S2 => exact setLateAp1_coefficients ..
  case damp1 | damp2 | ap3S1 => exact setApmRegs_coefficients ..
  case comb => exact setComb_fb ..
  case erLpf | crossLpf | dampLpf => exact iir1Lpf_coefficients ..
  case erHpf => exact iir1Hpf_coefficients ..
  case bassAp => exact bqAllpass_coefficients ..
  case bassLpf | outLpf | osUp | osDown => exact bqLpf_coefficients ..
  case dccut => rfl

end Sys2Proof.Machine

/-! # The biquad (rule R240) -/

namespace Sys2Proof.Machine

section
variable {s : State} {c : Ch} {r : BqRole} {q : Bq}

/-- A biquad replaced by one with the same coefficients: nothing changes but its stream state. -/
theorem Unchanged.setBq (h : q.clear = ((s.chan c).bq r).clear) :
    Unchanged { bqs := [(c, r)] } s (s.setBq c r q) := by
  refine .setChan (Chan.clear_setBq_eq h) (by simp) (by simp) (by simp) (fun e he => ?_) (by simp)
  have hne : e ≠ r := fun her => he (her ▸ List.mem_singleton_self _)
  rw [Chan.bq_setBq, if_neg hne]

theorem State.bq_setBq_yields (s : State) (c : Ch) (r : BqRole) (q : Bq) (ws : List Word) :
    (((s.setBq c r q).yields ws).chan c).bq r = q := by
  rw [State.chan_yields, State.chan_setBq, if_pos rfl, Chan.bq_setBq_same]

/-- BQ_PROCESS has no precondition: it completes on every biquad. -/
theorem exec_bqProcess (s : State) {i : InstId} (h : bqOfId i = some (c, r)) (x : Word) :
    exec (.bqProcess i x) s =
      .next ((s.setBq c r (bqProcess ((s.chan c).bq r) x).2).yields [(bqProcess ((s.chan c).bq r) x).1]) := by
  show execBqProcess i x s = _
  simp only [execBqProcess, h, named_some, bind_ok, outcomeOf_ok]

end

/-- Settles O34: the biquad named steps (`bqProcess_steps`), and replacing it changes nothing else
(`Unchanged.setBq`). -/
theorem bqProcessResult : Obligations.BqProcessResult := by
  intro i c r x s hi
  refine ⟨_, _, exec_bqProcess s hi x, rfl, ?_, (Unchanged.setBq (bqProcess_clear _ x)).yields _⟩
  rw [State.bq_setBq_yields]
  exact bqProcess_steps ((s.chan c).bq r) x

end Sys2Proof.Machine

/-! # The all-pass family (rules R260 to R265) -/

namespace Sys2Proof.Machine

/-! ## The frames -/

section
variable {s : State} {c : Ch}

/-- A plain section replaced by one with the same registers: nothing changes but its line's stream state. -/
theorem Unchanged.setAp1 {r : Ap1Role} {a : Ap1} (h : a.clear = ((s.chan c).ap1 r).clear) :
    Unchanged { lines := [(c, r.line)] } s (s.setAp1 c r a) := by
  refine .setChan (Chan.clear_setAp1_eq h) (fun q hq => ?_) (by simp) (by simp) (by simp) (by simp)
  have hne : q ≠ r.line := fun hqr => hq (hqr ▸ List.mem_singleton_self _)
  rw [Chan.line_setAp1, if_neg hne]

/-- A modulated section replaced by one with the same registers: nothing changes but its stream state. -/
theorem Unchanged.setApm {r : ApmRole} {a : Apm} (h : a.clear = ((s.chan c).apm r).clear) :
    Unchanged { apms := [(c, r)] } s (s.setApm c r a) := by
  refine .setChan (Chan.clear_setApm_eq h) (by simp) (fun q hq => ?_) (by simp) (by simp) (by simp)
  have hne : q ≠ r := fun hqr => hq (hqr ▸ List.mem_singleton_self _)
  rw [Chan.apm_setApm, if_neg hne]

/-- Replacing the AP2 is replacing its two sections (rule R264). -/
theorem Chan.setAp2_eq (x : Chan) (a : Ap2) :
    ({ x with cbassAp2 := a } : Chan) = (x.setAp1 .cbassAp2S0 a.s0).setAp1 .cbassAp2S1 a.s1 := rfl

/-- Replacing the AP3M is replacing its three sections (rule R265). -/
theorem Chan.setAp3m_eq (x : Chan) (a : Ap3m) :
    ({ x with cbassAp3 := a } : Chan) =
      ((x.setAp1 .cbassAp3S0 a.s0).setApm .cbassAp3S1 a.s1).setAp1 .cbassAp3S2 a.s2 := rfl

/-- A line that is neither of two lines of a channel is outside a frame that names the two. -/
theorem LineRole.ne_of_not_touched {q r r' : LineRole} (h : (c, q) ∉ [(c, r), (c, r')]) :
    q ≠ r ∧ q ≠ r' := by
  simpa using h

theorem Unchanged.setAp2 {a : Ap2} (h : a.clear = (s.chan c).cbassAp2.clear) :
    Unchanged { lines := [(c, .cbassAp2S0), (c, .cbassAp2S1)] } s
      (s.setChan c { s.chan c with cbassAp2 := a }) := by
  refine .setChan (by simp only [Chan.clear, h]) (fun q hq => ?_) ?_ ?_ ?_ (fun _ => rfl)
  · obtain ⟨h0, h1⟩ := LineRole.ne_of_not_touched hq
    rw [Chan.setAp2_eq, Chan.line_setAp1, Ap1Role.line, if_neg h1, Chan.line_setAp1, Ap1Role.line, if_neg h0]
  all_goals simp [Chan.setAp2_eq]

theorem Unchanged.setAp3m {a : Ap3m} (h : a.clear = (s.chan c).cbassAp3.clear) :
    Unchanged { lines := [(c, .cbassAp3S0), (c, .cbassAp3S2)], apms := [(c, .cbassAp3S1)] } s
      (s.setChan c { s.chan c with cbassAp3 := a }) := by
  refine .setChan (by simp only [Chan.clear, h]) (fun q hq => ?_) (fun q hq => ?_) ?_ ?_ (fun _ => rfl)
  · obtain ⟨h0, h2⟩ := LineRole.ne_of_not_touched hq
    rw [Chan.setAp3m_eq, Chan.line_setAp1, Ap1Role.line, if_neg h2, Chan.line_setApm, Chan.line_setAp1,
      Ap1Role.line, if_neg h0]
  · have hne : q ≠ .cbassAp3S1 := fun hqr => hq (hqr ▸ List.mem_singleton_self _)
    rw [Chan.setAp3m_eq, Chan.apm_setAp1, Chan.apm_setApm, if_neg hne, Chan.apm_setAp1]
  all_goals simp [Chan.setAp3m_eq]

end

/-! ## The instructions -/

/-- Settles O36: the section steps (`ap1Process_ok`), and replacing it changes nothing else
(`Unchanged.setAp1`). -/
theorem ap1ProcessResult : Obligations.Ap1ProcessResult := by
  intro a c r x s ha hok hs
  obtain ⟨y, a', hp, hsteps, _⟩ := ap1Process_ok hok (Nat.one_le_iff_ne_zero.mp hs) x
  refine ⟨(s.setAp1 c r a').yields [y], y, ?_, rfl, ?_,
    (Unchanged.setAp1 (ap1Process_clear _ _ x _ hp)).yields _⟩
  · rw [exec_ap1Process s ha, hp, bind_ok, outcomeOf_ok]
  · rw [State.chan_yields, State.chan_setAp1, if_pos rfl, Chan.ap1_setAp1_same]
    exact hsteps

/-- Settles O39: as AP1_PROCESS, with the modulated section's own step (`apmProcess_ok`) and frame
(`Unchanged.setApm`). -/
theorem apmProcessResult : Obligations.ApmProcessResult := by
  intro a c r x m s ha hok hs
  obtain ⟨y, a', hp, hsteps, _⟩ := apmProcess_ok hok (Nat.one_le_iff_ne_zero.mp hs) x m
  refine ⟨(s.setApm c r a').yields [y], y, ?_, rfl, ?_,
    (Unchanged.setApm (apmProcess_clear _ _ x m _ hp)).yields _⟩
  · rw [exec_apmProcess s ha, hp, bind_ok, outcomeOf_ok]
  · rw [State.chan_yields, State.chan_setApm, if_pos rfl, Chan.apm_setApm_same]
    exact hsteps

/-- Settles O37: the two sections step in series (`ap2Process_ok`). -/
theorem ap2ProcessResult : Obligations.Ap2ProcessResult := by
  intro a c x s ha h0 h1 hs0 hs1
  obtain ⟨y, a', hp, hsteps, _⟩ :=
    ap2Process_ok h0 h1 (Nat.one_le_iff_ne_zero.mp hs0) (Nat.one_le_iff_ne_zero.mp hs1) x
  refine ⟨(s.setChan c { s.chan c with cbassAp2 := a' }).yields [y], y, ?_, rfl, ?_,
    (Unchanged.setAp2 (ap2Process_clear _ _ x _ hp)).yields _⟩
  · rw [exec_ap2Process s ha, hp, bind_ok, outcomeOf_ok]
  · rw [State.chan_yields, State.chan_setChan_same]
    exact hsteps

/-- Settles O38: the three sections step in series (`ap3mProcess_ok`). -/
theorem ap3mProcessResult : Obligations.Ap3mProcessResult := by
  intro a c x m s ha h0 h1 h2 hs0 hs1 hs2
  obtain ⟨y, a', hp, hsteps, _⟩ := ap3mProcess_ok h0 h1 h2 (Nat.one_le_iff_ne_zero.mp hs0)
    (Nat.one_le_iff_ne_zero.mp hs1) (Nat.one_le_iff_ne_zero.mp hs2) x m
  refine ⟨(s.setChan c { s.chan c with cbassAp3 := a' }).yields [y], y, ?_, rfl, ?_,
    (Unchanged.setAp3m (ap3mProcess_clear _ _ x m _ hp)).yields _⟩
  · rw [exec_ap3mProcess s ha, hp, bind_ok, outcomeOf_ok]
  · rw [State.chan_yields, State.chan_setChan_same]
    exact hsteps

end Sys2Proof.Machine

/-! # The modulation offset (rule R262)

A finite datum stands for a rational number; comparisons and the floor are read there, and a result that
binary32 holds exactly is not changed by rounding. -/

namespace Sys2Proof.Machine

open Sys2Proof.Config (FloatOp)

/-! ## The number a finite datum stands for -/

/-- `(-1)^neg * m * 2^e`. -/
def finVal (neg : Bool) (m : Nat) (e : Int) : ℚ := (if neg then -(m : ℚ) else m) * 2 ^ e

section
variable {s t : Bool} {m n : Nat} {e g : Int}

theorem finVal_pos_iff : 0 < finVal s m e ↔ s = false ∧ 0 < m := by
  have h2 : (0 : ℚ) < 2 ^ e := by positivity
  rw [finVal, mul_pos_iff_of_pos_right h2]
  cases s <;> simp

/-- The value as an integer of units `2^e0`, for an `e0` not above the exponent. -/
theorem scaled_mul_two_zpow {e0 : Int} (h : e0 ≤ e) : (scaled s m e e0 : ℚ) * 2 ^ e0 = finVal s m e := by
  have hpow : (2 : ℚ) ^ (e - e0).toNat * 2 ^ e0 = 2 ^ e := by
    rw [← zpow_natCast, ← zpow_add₀ two_ne_zero, Int.toNat_of_nonneg (by omega), Int.sub_add_cancel]
  have hcast : (scaled s m e e0 : ℚ) = (if s then -(m : ℚ) else m) * 2 ^ (e - e0).toNat := by
    cases s <;> simp [scaled]
  rw [hcast, mul_assoc, hpow, finVal]

theorem Num.lt_fin_iff : (Num.fin s m e).lt (.fin t n g) = true ↔ finVal s m e < finVal t n g := by
  rw [← scaled_mul_two_zpow (min_le_left e g), ← scaled_mul_two_zpow (min_le_right e g),
    mul_lt_mul_iff_left₀ (by positivity), Int.cast_lt, Num.lt, decide_eq_true_iff]

theorem Num.eq_fin_iff : (Num.fin s m e).eq (.fin t n g) = true ↔ finVal s m e = finVal t n g := by
  rw [← scaled_mul_two_zpow (min_le_left e g), ← scaled_mul_two_zpow (min_le_right e g),
    mul_left_inj' (by positivity), Int.cast_inj, Num.eq, beq_iff_eq]

theorem Num.le_fin_iff : (Num.fin s m e).le (.fin t n g) = true ↔ finVal s m e ≤ finVal t n g := by
  rw [Num.le, Bool.or_eq_true, Num.lt_fin_iff, Num.eq_fin_iff, le_iff_lt_or_eq]

theorem floorFin_eq_floor (s : Bool) (m : Nat) (e : Int) : floorFin s m e = ⌊finVal s m e⌋ := by
  have hcast : (if s then -(m : ℚ) else m) = ((if s then -(m : Int) else m : Int) : ℚ) := by
    cases s <;> simp
  rw [floorFin, finVal, hcast]
  split
  next he =>
    obtain ⟨k, rfl⟩ := Int.eq_ofNat_of_zero_le he
    rw [zpow_natCast, Int.toNat_natCast]
    exact_mod_cast (Int.floor_intCast _).symm
  next he =>
    obtain ⟨k, hk⟩ := Int.eq_ofNat_of_zero_le (a := -e) (by omega)
    obtain rfl : e = -(k : Int) := by omega
    rw [zpow_neg, zpow_natCast, ← div_eq_mul_inv, neg_neg, Int.toNat_natCast]
    exact_mod_cast (Rat.floor_intCast_div_natCast _ (2 ^ k)).symm

theorem finVal_mul (s t : Bool) (m n : Nat) (e g : Int) :
    finVal s m e * finVal t n g = finVal (s ^^ t) (m * n) (e + g) := by
  have hsign : (if s then -(m : ℚ) else m) * (if t then -(n : ℚ) else n) =
      if s ^^ t then -((m * n : Nat) : ℚ) else (m * n : Nat) := by
    cases s <;> cases t <;> simp
  rw [finVal, finVal, finVal, ← hsign, zpow_add₀ two_ne_zero, mul_mul_mul_comm]

end

/-! ## Numbers that binary32 holds -/

/-- `q * 2^g` is a normal number of binary32, its hidden bit written out. -/
structure Normal32 (q : Nat) (g : Int) : Prop where
  le : 2 ^ 23 ≤ q
  lt : q < 2 ^ 24
  emin : -149 ≤ g
  emax : g ≤ 104

section
variable {q m : Nat} {g e : Int}

/-- The encoding of a normal number, as `roundBits` builds it, is read back. -/
theorem Normal32.unpack (h : Normal32 q g) :
    unpack binary32 (q + (g + 149).toNat * 2 ^ 23) = .fin false q g := by
  obtain ⟨hle, hlt, hmin, hmax⟩ := h
  obtain ⟨x, hx⟩ := Int.eq_ofNat_of_zero_le (a := g + 149) (by omega)
  obtain rfl : g = (x : Int) - 149 := by omega
  have hfrac : (q + x * 2 ^ 23) % 2 ^ 23 = q - 2 ^ 23 := by omega
  have hex : (q + x * 2 ^ 23) / 2 ^ 23 % 2 ^ 8 = x + 1 := by omega
  have hneg : (q + x * 2 ^ 23) / 2 ^ 31 % 2 = 0 := by omega
  simp only [Machine.unpack, binary32, hx, Int.toNat_natCast, Nat.add_one_sub_one, Nat.reduceAdd,
    hfrac, hex, hneg]
  rw [if_neg (by omega), if_neg (by omega)]
  simp only [Num.fin.injEq]
  refine ⟨rfl, by omega, by push_cast; omega⟩

/-- A shift that drops zeros only drops nothing. -/
theorem roundShift_mul_two_pow (q d : Nat) : roundShift (q * 2 ^ d) d = q := by
  have hd : 0 < 2 ^ d := by positivity
  have hh : 0 < 2 ^ (d - 1) := by positivity
  simp only [roundShift, Nat.mul_div_cancel _ hd, Nat.mul_mod_left]
  rw [if_neg (by omega)]

/-- Doubling moves the leading bit up by one. -/
theorem log2_mul_two_pow (hm : m ≠ 0) (d : Nat) : Nat.log2 (m * 2 ^ d) = Nat.log2 m + d := by
  induction d with
  | zero => rw [pow_zero, mul_one, Nat.add_zero]
  | succ d ih =>
    have hd : m * 2 ^ d ≠ 0 := by positivity
    rw [pow_succ', mul_left_comm, Nat.log2_two_mul hd, ih, Nat.add_assoc]

theorem Normal32.log2 (h : Normal32 q g) : Nat.log2 q = 23 :=
  (Nat.log2_eq_iff (by have := h.le; omega)).2 ⟨h.le, h.lt⟩

/-- The significands of equal numbers differ by the power of two that their exponents make up for. -/
theorem shift_of_finVal_eq (h : finVal false m e = finVal false q g) :
    (∃ d : Nat, m = q * 2 ^ d ∧ e = g - d) ∨ ∃ d : Nat, q = m * 2 ^ d ∧ e = g + d := by
  have hq : (m : ℚ) * 2 ^ e = q * 2 ^ g := h
  rcases le_total e g with hle | hle
  · obtain ⟨d, hd⟩ := Int.eq_ofNat_of_zero_le (sub_nonneg.2 hle)
    obtain rfl : g = e + d := by omega
    refine .inl ⟨d, ?_, by omega⟩
    rw [zpow_add₀ two_ne_zero, zpow_natCast, mul_left_comm, mul_comm, mul_right_inj' (by positivity)] at hq
    exact_mod_cast hq
  · obtain ⟨d, hd⟩ := Int.eq_ofNat_of_zero_le (sub_nonneg.2 hle)
    obtain rfl : e = g + d := by omega
    refine .inr ⟨d, ?_, rfl⟩
    rw [zpow_add₀ two_ne_zero, zpow_natCast, mul_left_comm, mul_comm, mul_left_inj' (by positivity)] at hq
    exact_mod_cast hq.symm

/-- What `roundBits` does in binary32: `g` is the exponent and `q` the significand after rounding. -/
theorem roundBits32_eq (hm : m ≠ 0) (hg : max (e + (Nat.log2 m : Int) + 1 - 24) (-149) = g)
    (hq : (if g ≤ e then m * 2 ^ (e - g).toNat else roundShift m (g - e).toNat) = q) :
    roundBits binary32 m e = min (q + (g + 149).toNat * 2 ^ 23) (infBits binary32) := by
  subst hg hq
  exact if_neg hm

/-- Rounding a number that is normal in binary32 changes nothing. -/
theorem Normal32.roundBits (h : Normal32 q g) (hv : finVal false m e = finVal false q g) :
    roundBits binary32 m e = q + (g + 149).toNat * 2 ^ 23 := by
  have hlog := h.log2
  obtain ⟨hle, hlt, hmin, hmax⟩ := h
  have hinf : q + (g + 149).toNat * 2 ^ 23 ≤ infBits binary32 := by
    simp only [infBits, binary32]
    omega
  have hm : m ≠ 0 := by
    have hpos : 0 < finVal false m e := hv ▸ finVal_pos_iff.2 ⟨rfl, by omega⟩
    exact (finVal_pos_iff.1 hpos).2.ne'
  have hexp : max (e + (Nat.log2 m : Int) + 1 - 24) (-149) = g ∧
      (if g ≤ e then m * 2 ^ (e - g).toNat else roundShift m (g - e).toNat) = q := by
    rcases shift_of_finVal_eq hv with ⟨d, rfl, rfl⟩ | ⟨d, rfl, rfl⟩
    · rw [log2_mul_two_pow (by omega), hlog]
      refine ⟨by omega, ?_⟩
      split
      next hd =>
        obtain rfl : d = 0 := by omega
        simp
      next => rw [show (g - (g - d)).toNat = d by omega, roundShift_mul_two_pow]
    · rw [log2_mul_two_pow hm] at hlog
      refine ⟨by omega, ?_⟩
      rw [if_pos (by omega), show (g + d - g).toNat = d by omega]
  rw [roundBits32_eq hm hexp.1 hexp.2]
  exact Nat.min_eq_left hinf

/-- A number that is normal in binary32, packed and read back. -/
theorem Normal32.val32_pack (h : Normal32 q g) (hv : finVal false m e = finVal false q g) :
    val32 (BitVec.ofNat 32 (pack binary32 0 (.fin false m e))) = .fin false q g := by
  have hlt : q + (g + 149).toNat * 2 ^ 23 < 2 ^ 32 := by
    obtain ⟨hle, hlt, hmin, hmax⟩ := h
    omega
  rw [val32, BitVec.toNat_ofNat, pack, signBits, if_neg Bool.false_ne_true, Nat.zero_add, h.roundBits hv,
    Nat.mod_eq_of_lt hlt, h.unpack]

/-- A product that binary32 holds is exact. -/
theorem Normal32.val32_mul32 {a b : Word} {n : Nat} {k : Int} (h : Normal32 q g) (ha : val32 a = .fin false m e)
    (hb : val32 b = .fin false n k) (hv : finVal false m e * finVal false n k = finVal false q g) :
    val32 (mul32 a b) = .fin false q g := by
  rw [mul32, ha, hb]
  exact h.val32_pack ((finVal_mul ..).symm.trans hv)

/-- The integers of rule R262 are exact. -/
theorem val32_nat32 {M : Nat} (h1 : 1 ≤ M) (h2 : M < 2 ^ 24) :
    ∃ q g, val32 (nat32 M) = .fin false q g ∧ Normal32 q g ∧ -23 ≤ g ∧ finVal false q g = M := by
  have hM : M ≠ 0 := by omega
  have hlog : Nat.log2 M ≤ 23 := Nat.le_of_lt_succ ((Nat.log2_lt hM).2 h2)
  obtain ⟨d, hd⟩ := Nat.exists_eq_add_of_le' hlog
  have hlog' : Nat.log2 (M * 2 ^ d) = 23 := (log2_mul_two_pow hM d).trans (by omega)
  obtain ⟨hle, hlt⟩ := (Nat.log2_eq_iff (by positivity)).1 hlog'
  have hn : Normal32 (M * 2 ^ d) (-d) := ⟨hle, hlt, by omega, by omega⟩
  have hv : finVal false (M * 2 ^ d) (-d) = M := by
    simp [finVal]
  refine ⟨_, _, ?_, hn, by omega, hv⟩
  rw [nat32, int32ToF32, Int.natAbs_natCast, decide_eq_false (by omega)]
  exact hn.val32_pack (.trans (by simp [finVal]) hv.symm)

end

/-! ## A NaN stays a NaN -/

theorem isNaN32_iff {a : Word} : isNaN32 a = true ↔ val32 a = .nan := beq_iff_eq

theorem isNaN32_nan32 (op : FloatOp) (a b : DWord) : isNaN32 (nan32 op a b) = true := by
  unfold nan32
  simp only
  split
  · assumption
  · decide +kernel

theorem isNaN32_add32 {a : Word} (h : isNaN32 a = true) (b : Word) : isNaN32 (add32 a b) = true := by
  rw [add32, isNaN32_iff.1 h]
  exact isNaN32_nan32 _ _ _

theorem isNaN32_mul32 {a : Word} (h : isNaN32 a = true) (b : Word) : isNaN32 (mul32 a b) = true := by
  rw [mul32, isNaN32_iff.1 h]
  exact isNaN32_nan32 _ _ _

/-! ## The offset -/

/-- The point `t` of rule R262 that a modulation word names in a window of `M` slots: what `modOffset` tests
and takes the floor of. -/
def modPoint (m : Word) (M : Nat) : Word := mul32 (mul32 (add32 m 0x3F800000) 0x3F000000) (nat32 M)

section
variable {m : Word} {M : Nat}

theorem val32_zero : val32 0 = .fin false 0 (-149) := by decide +kernel

theorem le32_zero_of_fin {a : Word} {s : Bool} {n : Nat} {e : Int} (h : val32 a = .fin s n e) :
    le32 a 0 = true ↔ finVal s n e ≤ 0 := by
  have h0 : finVal false 0 (-149) = 0 := by simp [finVal]
  rw [le32, h, val32_zero, Num.le_fin_iff, h0]

theorem nat32_le32_of_fin (h1 : 1 ≤ M) (h2 : M < 2 ^ 24) {a : Word} {s : Bool} {n : Nat} {e : Int}
    (h : val32 a = .fin s n e) : le32 (nat32 M) a = true ↔ (M : ℚ) ≤ finVal s n e := by
  obtain ⟨q, g, hM, _, _, hv⟩ := val32_nat32 h1 h2
  rw [le32, h, hM, Num.le_fin_iff, hv]

/-- A word that compares is no NaN. -/
theorem isNaN32_of_le32_right {a b : Word} (h : le32 a b = true) : isNaN32 b = false := by
  rw [Bool.eq_false_iff]
  intro hn
  rw [le32, isNaN32_iff.1 hn] at h
  cases ha : val32 a <;> simp [ha, Num.le, Num.lt, Num.eq] at h

theorem modOffset_of_nan (h : isNaN32 (modPoint m M) = true) : modOffset m M = 0 :=
  if_pos (Bool.or_eq_true_iff.2 (.inl h))

theorem modOffset_of_le_zero (h : le32 (modPoint m M) 0 = true) : modOffset m M = 0 :=
  if_pos (Bool.or_eq_true_iff.2 (.inr h))

theorem modOffset_of_ge (h0 : le32 (modPoint m M) 0 = false) (h : le32 (nat32 M) (modPoint m M) = true) :
    modOffset m M = M - 1 := by
  refine (if_neg ?_).trans (if_pos h)
  rw [Bool.or_eq_true_iff, not_or]
  exact ⟨Bool.eq_false_iff.1 (isNaN32_of_le32_right h), Bool.eq_false_iff.1 h0⟩

/-- Inside the window the offset is the floor of the point, which is not below 0. -/
theorem modOffset_of_fin {s : Bool} {n : Nat} {e : Int} (hv : val32 (modPoint m M) = .fin s n e)
    (h0 : le32 (modPoint m M) 0 = false) (h : le32 (nat32 M) (modPoint m M) = false) :
    (modOffset m M : Int) = floorFin s n e := by
  have hpos : 0 < finVal s n e := not_le.1 fun hle => Bool.eq_false_iff.1 h0 ((le32_zero_of_fin hv).2 hle)
  have hfloor : 0 ≤ floorFin s n e := by
    rw [floorFin_eq_floor]
    exact Int.floor_nonneg.2 hpos.le
  have heq : modOffset m M = (floorFin s n e).toNat := by
    refine (if_neg ?_).trans ((if_neg (Bool.eq_false_iff.1 h)).trans ?_)
    · rw [Bool.or_eq_true_iff, not_or]
      refine ⟨fun hn => ?_, Bool.eq_false_iff.1 h0⟩
      cases hv.symm.trans (isNaN32_iff.1 hn)
    · show (match val32 (modPoint m M) with | .fin neg n e => (floorFin neg n e).toNat | _ => 0) = _
      rw [hv]
  rw [heq, Int.toNat_of_nonneg hfloor]

/-- An infinity is not above 0, or it is not below the whole window. -/
theorem le32_of_inf (h1 : 1 ≤ M) (h2 : M < 2 ^ 24) {a : Word} {s : Bool} (h : val32 a = .inf s) :
    le32 a 0 = true ∨ le32 (nat32 M) a = true := by
  obtain ⟨q, g, hM, _⟩ := val32_nat32 h1 h2
  rw [le32, le32, h, hM, val32_zero]
  cases s
  · exact .inr rfl
  · exact .inl rfl

/-- The offset lies in the window, whatever the modulation word. -/
theorem modOffset_lt (h1 : 1 ≤ M) (h2 : M < 2 ^ 24) (m : Word) : modOffset m M < M := by
  by_cases h0 : le32 (modPoint m M) 0 = true
  · rw [modOffset_of_le_zero h0]
    exact h1
  by_cases h : le32 (nat32 M) (modPoint m M) = true
  · rw [modOffset_of_ge (Bool.eq_false_iff.2 h0) h]
    omega
  cases hv : val32 (modPoint m M) with
  | nan =>
    rw [modOffset_of_nan (isNaN32_iff.2 hv)]
    exact h1
  | inf s => exact ((le32_of_inf h1 h2 hv).elim h0 h).elim
  | fin s n e =>
    have hlt : finVal s n e < M := not_le.1 fun hle => h ((nat32_le32_of_fin h1 h2 hv).2 hle)
    have heq := modOffset_of_fin hv (Bool.eq_false_iff.2 h0) (Bool.eq_false_iff.2 h)
    rw [floorFin_eq_floor] at heq
    have hfloor : ⌊finVal s n e⌋ < (M : Int) := Int.floor_lt.2 (by exact_mod_cast hlt)
    omega

theorem isNaN32_modPoint (h : isNaN32 m = true) (M : Nat) : isNaN32 (modPoint m M) = true :=
  isNaN32_mul32 (isNaN32_mul32 (isNaN32_add32 h _) _) _

/-! ## The points that -1, 0 and 1 name: 0, `M / 2` and `M` -/

/-- Half of `m + 1` is 0 for `m = -1`, and so is the product. -/
theorem modPoint_neg_one (h1 : 1 ≤ M) (h2 : M < 2 ^ 24) : modPoint 0xBF800000 M = 0 := by
  have hhalf : mul32 (add32 0xBF800000 0x3F800000) 0x3F000000 = 0 := by decide +kernel
  obtain ⟨q, g, hM, _⟩ := val32_nat32 h1 h2
  rw [modPoint, hhalf, mul32, hM, val32_zero, Num.mul, Nat.zero_mul]
  rfl

/-- Half of `m + 1` is 1/2 for `m = 0`. -/
theorem val32_modPoint_zero (h1 : 1 ≤ M) (h2 : M < 2 ^ 24) :
    ∃ n e, val32 (modPoint 0 M) = .fin false n e ∧ finVal false n e = M / 2 := by
  have hhalf : val32 (mul32 (add32 0 0x3F800000) 0x3F000000) = .fin false (2 ^ 23) (-24) := by decide +kernel
  obtain ⟨q, g, hM, hn, hg, hv⟩ := val32_nat32 h1 h2
  have hn' : Normal32 q (g - 1) := ⟨hn.le, hn.lt, by omega, by have := hn.emax; omega⟩
  have hv' : finVal false q (g - 1) = M / 2 := by
    rw [← hv]
    simp [finVal, zpow_sub_one₀, div_eq_mul_inv, mul_assoc]
  refine ⟨q, g - 1, hn'.val32_mul32 hhalf hM ?_, hv'⟩
  rw [hv, hv']
  norm_num [finVal]
  ring

/-- Half of `m + 1` is 1 for `m = 1`. -/
theorem val32_modPoint_one (h1 : 1 ≤ M) (h2 : M < 2 ^ 24) :
    ∃ n e, val32 (modPoint 0x3F800000 M) = .fin false n e ∧ finVal false n e = M := by
  have hhalf : val32 (mul32 (add32 0x3F800000 0x3F800000) 0x3F000000) = .fin false (2 ^ 23) (-23) := by
    decide +kernel
  obtain ⟨q, g, hM, hn, _, hv⟩ := val32_nat32 h1 h2
  refine ⟨q, g, hn.val32_mul32 hhalf hM ?_, hv⟩
  rw [hv]
  norm_num [finVal]

end

/-- Settles O40: the clauses of the formula are the branches of the offset, on the number that the point stands
for; the three values follow because the point is exact for -1, 0 and 1. -/
theorem modulationOffset : Obligations.ModulationOffset := by
  intro M h1 h2
  have hM : (0 : ℚ) < M := by exact_mod_cast h1
  refine ⟨fun m => ⟨fun h => h.elim modOffset_of_nan modOffset_of_le_zero, modOffset_of_ge,
    fun neg n e => modOffset_of_fin⟩, modOffset_lt h1 h2, fun m h => modOffset_of_nan (isNaN32_modPoint h M),
    ?_, ?_, ?_⟩
  · exact modOffset_of_le_zero (modPoint_neg_one h1 h2 ▸ (by decide : le32 0 0 = true))
  · obtain ⟨n, e, hp, hv⟩ := val32_modPoint_zero h1 h2
    have h0 := mt (le32_zero_of_fin hp).1 (by rw [hv]; linarith)
    have hlt := mt (nat32_le32_of_fin h1 h2 hp).1 (by rw [hv]; linarith)
    have heq := modOffset_of_fin hp (Bool.eq_false_iff.2 h0) (Bool.eq_false_iff.2 hlt)
    have hfloor : ⌊(M : ℚ) / 2⌋ = ((M / 2 : Nat) : Int) := by
      exact_mod_cast Rat.floor_natCast_div_natCast M 2
    rw [floorFin_eq_floor, hv, hfloor] at heq
    exact_mod_cast heq
  · obtain ⟨n, e, hp, hv⟩ := val32_modPoint_one h1 h2
    have h0 := mt (le32_zero_of_fin hp).1 (by rw [hv]; linarith)
    exact modOffset_of_ge (Bool.eq_false_iff.2 h0) ((nat32_le32_of_fin h1 h2 hp).2 hv.ge)

end Sys2Proof.Machine

/-! # The comb (rule R290) -/

namespace Sys2Proof.Machine

/-- A comb with the same feedback differs in its line only. -/
theorem Chan.setComb_eq {x : Chan} {k : Comb} (h : k.fb = x.comb.fb) :
    ({ x with comb := k } : Chan) = x.setLine .comb k.line := by
  show ({ x with comb := ⟨k.line, k.fb⟩ } : Chan) = { x with comb := ⟨k.line, x.comb.fb⟩ }
  rw [h]

/-- A comb replaced by one with the same length and feedback: nothing changes but its line's stream state. -/
theorem Unchanged.setComb {s : State} {c : Ch} {k : Comb} (hsize : k.line.size = (s.chan c).comb.line.size)
    (hfb : k.fb = (s.chan c).comb.fb) :
    Unchanged { lines := [(c, .comb)] } s (s.setChan c { s.chan c with comb := k }) := by
  rw [Chan.setComb_eq hfb]
  exact Unchanged.setLine hsize

/-- Settles O41: the comb steps (`combProcess_ok`) and keeps its length and feedback (`combProcess_config`), so
replacing it changes nothing else (`Unchanged.setComb`). -/
theorem combProcessResult : Obligations.CombProcessResult := by
  intro k c x s hk hok hs
  obtain ⟨y, k', hp, hsteps, _⟩ := combProcess_ok hok (Nat.one_le_iff_ne_zero.mp hs) x
  obtain ⟨hsize, hfb⟩ := combProcess_config hp
  refine ⟨(s.setChan c { s.chan c with comb := k' }).yields [y], y, ?_, rfl, ?_,
    (Unchanged.setComb hsize hfb).yields _⟩
  · rw [exec_combProcess s hk, hp, bind_ok, outcomeOf_ok]
  · rw [State.chan_yields, State.chan_setChan_same]
    exact hsteps

end Sys2Proof.Machine

/-! # The noise source (rules R300 to R305) -/

namespace Sys2Proof.Machine

open Sys2Proof.Config (Params)

/-! ## The entries of the table -/

/-- The generator states drawn are the iterates of the generator step, the first step first. -/
theorem draws_fst (n : Nat) (s : Word) : (draws n s).1 = List.iterate xorshift32 (xorshift32 s) n := by
  induction n generalizing s with
  | zero => rfl
  | succ n ih => rw [draws, ih, List.iterate]

theorem draws_snd (n : Nat) (s : Word) : (draws n s).2 = xorshift32^[n] s := by
  induction n generalizing s with
  | zero => rfl
  | succ n ih => rw [draws, ih, Function.iterate_succ_apply]

theorem getElem?_draws {n k : Nat} (h : k < n) (s : Word) :
    (draws n s).1[k]? = some (xorshift32^[k + 1] s) := by
  rw [draws_fst, List.getElem?_iterate _ _ _ _ h, Function.iterate_succ_apply]

/-- A list whose elements each cover a run of `k` entries: entry `i` belongs to element `i / k`. -/
theorem getElem?_flatMap_replicate {α β : Type} {k : Nat} (hk : 0 < k) (f : α → β) (xs : List α)
    (i : Nat) :
    (xs.flatMap fun x => List.replicate k (f x))[i]? = xs[i / k]?.map f := by
  induction xs generalizing i with
  | nil => rfl
  | cons x xs ih =>
    rw [List.flatMap_cons]
    rcases Nat.lt_or_ge i k with hi | hi
    · rw [List.getElem?_append_left (by rwa [List.length_replicate]), List.getElem?_replicate_of_lt hi,
        Nat.div_eq_of_lt hi]
      rfl
    · rw [List.getElem?_append_right (by rwa [List.length_replicate]), List.length_replicate, ih,
        Nat.div_eq_sub_div hk hi, List.getElem?_cons_succ]

/-- The value octave `o` adds to entry `i`, when the generator stands at `s` before the octave (rules R302 to
R304). -/
def octaveValue (o i : Nat) (s : Word) : Word :=
  mul32 (octaveWeight o) (uniform (xorshift32^[i / 2 ^ o + 1] s))

theorem getElem?_addOctave {o i : Nat} (ho : o < 8) (hi : i < noiseLen) (tab : List Word) (s : Word) :
    (addOctave o tab s).1[i]? = tab[i]?.map (add32 · (octaveValue o i s)) := by
  have hdvd : 2 ^ o ∣ noiseLen := Nat.pow_dvd_pow 2 (by omega)
  have hdraw := getElem?_draws (Nat.div_lt_div_of_lt_of_dvd hdvd hi) s
  rw [addOctave, List.getElem?_zipWith, getElem?_flatMap_replicate (Nat.two_pow_pos o), hdraw]
  cases tab[i]? <;> rfl

/-- An octave leaves the generator after its last draw. -/
theorem addOctave_snd (o : Nat) (tab : List Word) (s : Word) :
    (addOctave o tab s).2 = xorshift32^[noiseLen / 2 ^ o] s := draws_snd _ s

theorem drawsBefore_succ (o : Nat) : drawsBefore (o + 1) = noiseLen / 2 ^ o + drawsBefore o := by
  rw [drawsBefore, List.range_succ, List.map_append, List.sum_append, Nat.add_comm]
  rfl

/-- The octaves `o` to `o + n - 1`, from the generator state that the earlier octaves leave. -/
theorem getElem?_addOctaves {n o i : Nat} (ho : o + n ≤ 8) (hi : i < noiseLen) (tab : List Word) :
    (addOctaves n o tab (xorshift32^[drawsBefore o] noiseSeed))[i]? =
      tab[i]?.map ((List.range' o n).foldl
        fun acc k => add32 acc (octaveValue k i (xorshift32^[drawsBefore k] noiseSeed))) := by
  induction n generalizing o tab with
  | zero => exact Option.map_id'.symm
  | succ n ih =>
    rw [addOctaves, addOctave_snd, ← Function.iterate_add_apply, ← drawsBefore_succ, ih (by omega),
      getElem?_addOctave (by omega) hi, Option.map_map]
    rfl

/-- The draws are counted from the seed on. -/
theorem noiseEntry_eq_foldl_octaveValue (i : Nat) :
    noiseEntry i = (List.range' 0 8).foldl
      (fun acc k => add32 acc (octaveValue k i (xorshift32^[drawsBefore k] noiseSeed))) 0 := by
  have hdraws (k : Nat) : drawsBefore k + i / 2 ^ k + 1 = i / 2 ^ k + 1 + drawsBefore k := by
    rw [Nat.add_assoc, Nat.add_comm]
  simp only [noiseEntry, List.range_eq_range', octaveValue, hdraws, Function.iterate_add_apply]

/-- Settles O16: each octave adds its value to every entry (`getElem?_addOctave`), and begins where the earlier
octaves' draws end (`addOctave_snd`). -/
theorem noiseTableEntries : Obligations.NoiseTableEntries := by
  refine ⟨noiseTable_length, fun i hi => ?_⟩
  have hzero : (List.replicate noiseLen (0 : Word))[i]? = some 0 := List.getElem?_replicate_of_lt hi
  have hentry := getElem?_addOctaves (n := 8) (o := 0) le_rfl hi (List.replicate noiseLen 0)
  rw [hzero, Option.map_some, ← noiseEntry_eq_foldl_octaveValue] at hentry
  exact hentry

/-! ## No instruction changes the generated table -/

theorem Noise.tab_eq_of_clear {n m : Noise} (h : m.clear = n.clear) : m.tab = n.tab :=
  congrArg (·.tab) h

section
variable {s t : State}

/-- `t` has the noise table of `s`. -/
def KeepsTable (s t : State) : Prop := t.noise.tab = s.noise.tab

theorem keepsTable_of_next {r : Except Fault State} (h : outcomeOf r = .next t)
    (hr : Ensures r (KeepsTable s)) : KeepsTable s t := hr t (outcomeOf_eq_next.mp h)

theorem KeepsTable.of_noise (h : t.noise = s.noise) : KeepsTable s t := congrArg Noise.tab h

/-- The table is no stream state (rule R42). -/
theorem KeepsTable.of_clearStream (h : t.clearStream = s.clearStream) : KeepsTable s t := by
  rw [KeepsTable, ← t.clearStream_noise_tab, h, s.clearStream_noise_tab]

theorem KeepsTable.accept (h : KeepsTable s t) (ws : List Word) : KeepsTable s (t.accept ws) := h

theorem KeepsTable.yields (h : KeepsTable s t) (ws : List Word) : KeepsTable s (t.yields ws) := h

theorem configure_keepsTable (P : Params) (keep : Bool) (m : Mode) (p : Option ParamVec) (s : State) :
    KeepsTable s (configure P keep m p s) := by
  have hregs : KeepsTable s (configured P p s) := by
    cases p with
    | none => rfl
    | some p => exact .of_noise (derive_noise P p s)
  rw [configure_eq]
  cases keep <;> exact hregs

theorem cfgPreset_keepsTable (P : Params) (keep : Bool) (id : BitVec 16) (s : State) :
    KeepsTable s (cfgPreset P keep id s) := by
  unfold cfgPreset
  split
  · exact (configure_keepsTable P keep _ _ s).accept _
  · rfl

theorem cfgVector_keepsTable (P : Params) (keep : Bool) (v : List Word) (s : State) :
    KeepsTable s (cfgVector P keep v s) := by
  unfold cfgVector
  split
  · exact (configure_keepsTable P keep _ _ s).accept _
  · exact (configure_keepsTable P keep _ _ s).accept _
  · rfl

/-- Only RESET and NOISE_GENERATE write the table: a primitive operation replaces a part of a channel, a
smoother, an oscillator or the cursor, and the graph and the configurations change stream state and registers. -/
theorem exec_keepsTable {i : Instr} (hreset : i ≠ .reset) (hgenerate : ∀ n, i ≠ .noiseGenerate n)
    (h : exec i s = .next t) : KeepsTable s t := by
  cases i with
  | reset => exact absurd rfl hreset
  | noiseGenerate n => exact absurd rfl (hgenerate n)
  | cfgBypass keep =>
    cases h
    exact (configure_keepsTable params keep _ _ s).accept _
  | cfgAdvanced keep p =>
    cases h
    exact (configure_keepsTable params keep _ _ s).accept _
  | cfgPreset keep id =>
    cases h
    exact cfgPreset_keepsTable params keep id s
  | cfgVector keep v =>
    cases h
    exact cfgVector_keepsTable params keep v s
  | derive p =>
    cases h
    exact .of_noise (derive_noise params p s)
  | queryValid =>
    cases h
    rfl
  | processSample a b =>
    exact keepsTable_of_next h
      ((sampleStep_clear params s _).bind fun _ hr =>
        .ok ((KeepsTable.of_clearStream hr).accept _))
  | processBlock xs =>
    exact keepsTable_of_next h
      ((sampleSteps_clear params s xs).bind fun _ hr =>
        .ok ((KeepsTable.of_clearStream hr).accept _))
  | erStep a b =>
    exact keepsTable_of_next h
      (.skip fun _ => (erStep_clear params s _).bind fun _ hr =>
        .ok ((KeepsTable.of_clearStream hr).yields _))
  | lateStep a b =>
    exact keepsTable_of_next h
      (.skip fun _ => (lateStep_clear params s _).bind fun _ hr =>
        .ok ((KeepsTable.of_clearStream hr).yields _))
  | lateOsStep a b =>
    exact keepsTable_of_next h
      (.skip fun _ => (lateOsStep_clear params s _).bind fun _ hr =>
        .ok ((KeepsTable.of_clearStream hr).yields _))
  | engineSample a b =>
    exact keepsTable_of_next h
      (.skip fun _ => (engineSample_clear params s _).bind fun _ hr =>
        .ok ((KeepsTable.of_clearStream hr).yields _))
  | dlRead d k => exact keepsTable_of_next h (.skip fun _ => .skip fun _ => .ok rfl)
  | dlWrite | dlProcess | ap1Process | ap2Process | ap3mProcess | apmProcess | combProcess | osUp | osDown =>
    exact keepsTable_of_next h
      (.skip fun _ => .skip fun _ => .ok ((KeepsTable.of_noise (State.noise_setChan ..)).yields _))
  | bqProcess | dccutProcess =>
    exact keepsTable_of_next h (.skip fun _ => .ok ((KeepsTable.of_noise (State.noise_setChan ..)).yields _))
  | iir1Process f x =>
    exact keepsTable_of_next h (.skip fun _ => .ok ((KeepsTable.of_noise (State.noise_setIir1 ..)).yields _))
  | lfoStep l =>
    exact keepsTable_of_next h (.skip fun _ => .ok ((KeepsTable.of_noise (State.noise_setLfo ..)).yields _))
  | noiseNext n =>
    exact keepsTable_of_next h
      (.skip fun _ => (noiseNext_clear s.noise).bind fun _ hn => .ok (Noise.tab_eq_of_clear hn))

/-- RESET and NOISE_GENERATE write the generated table (rules R305 and R420). -/
theorem exec_reset_noise_tab (h : exec .reset s = .next t) : t.noise.tab = noiseTable := by
  cases h
  rfl

theorem exec_noiseGenerate_noise_tab {n : InstId} (h : exec (.noiseGenerate n) s = .next t) :
    t.noise.tab = noiseTable := by
  obtain ⟨_, _, ht⟩ := bind_eq_ok.mp (outcomeOf_eq_next.mp h)
  cases ht
  rfl

end

/-- Settles O15: RESET and NOISE_GENERATE write the generated table, every other instruction keeps the table
there is (`exec_keepsTable`). -/
theorem noiseTableIsConstant : Obligations.NoiseTableIsConstant := by
  intro i s t hs h
  cases i with
  | reset => exact exec_reset_noise_tab h
  | noiseGenerate n => exact exec_noiseGenerate_noise_tab h
  | _ => exact (exec_keepsTable (by simp) (by simp) h).trans hs

/-! ## The instructions of the noise source -/

/-- The cursor moved: nothing else changes. -/
theorem Unchanged.setNpos (s : State) (k : Nat) :
    Unchanged { noise := true } s { s with noise := { s.noise with npos := k } } where
  config := (SameConfig.refl s).with_other_fields ..
  mode := rfl
  noise_tab := rfl
  port := rfl
  reply := rfl
  line _ _ _ := rfl
  apm _ _ _ := rfl
  iir1 _ _ := rfl
  bq _ _ _ := rfl
  dcc _ _ := rfl
  lfo _ _ := rfl
  noise := nofun

/-- NOISE_NEXT completes where the cursor lies inside the table. -/
theorem exec_noiseNext {s : State} {i : InstId} {y : Word} (hi : isNoiseId i = true)
    (hy : s.noise.tab[s.noise.npos]? = some y) :
    exec (.noiseNext i) s =
      .next (({ s with noise := { s.noise with npos := (s.noise.npos + 1) % noiseLen } } : State).yields
        [y]) := by
  show execNoiseNext i s = _
  simp only [execNoiseNext, noiseNext, hi, hy, if_true, named_some, bind_ok, outcomeOf_ok]

/-- NOISE_GENERATE has no precondition. -/
theorem exec_noiseGenerate (s : State) {i : InstId} (h : isNoiseId i = true) :
    exec (.noiseGenerate i) s = .next (({ s with noise := noiseGenerate s.noise } : State).yields []) := by
  show execNoiseGenerate i s = _
  rw [execNoiseGenerate, if_pos h, named_some, bind_ok, outcomeOf_ok]

/-- Settles O42: a cursor below `NOISE_LEN` lies inside the generated table (`noiseTable_length`), and the step
writes the cursor only (`Unchanged.setNpos`). -/
theorem noiseNextResult : Obligations.NoiseNextResult := by
  intro i s hi htab hpos
  have hlt : s.noise.npos < s.noise.tab.length := by
    rw [htab, noiseTable_length]
    exact hpos
  have hy := List.getElem?_eq_getElem hlt
  exact ⟨_, _, exec_noiseNext hi hy, rfl, hy, rfl, (Unchanged.setNpos s _).yields _⟩

/-- Settles O43: NOISE_GENERATE replaces the noise source whole (`exec_noiseGenerate`). -/
theorem noiseGenerateResult : Obligations.NoiseGenerateResult := fun _ s hi => exec_noiseGenerate s hi

end Sys2Proof.Machine

/-! # The oscillators (rule R310) -/

namespace Sys2Proof.Machine

section
variable {s : State}

@[simp] theorem State.iir1_setLfo (s : State) (r : LfoRef) (l : Lfo) (q : Iir1Ref) :
    (s.setLfo r l).iir1 q = s.iir1 q := by
  cases q with
  | chan c q => exact congrArg (·.iir1 q) (State.chan_setLfo s r l c)
  | lfo1 => exact State.lfo1Lpf_setLfo ..
  | lfo2 => exact State.lfo2Lpf_setLfo ..

/-- An oscillator replaced by one with the same rotation: nothing changes but its stream state. -/
theorem Unchanged.setLfo {r : LfoRef} {l : Lfo} (h : l.clear = (s.lfo r).clear) :
    Unchanged { lfos := [r] } s (s.setLfo r l) where
  config := (Keeps.setLfo h).config
  mode := State.mode_setLfo ..
  noise_tab := by rw [State.noise_setLfo]
  port := State.port_setLfo ..
  reply := State.reply_setLfo ..
  line _ _ _ := by rw [State.chan_setLfo]
  apm _ _ _ := by rw [State.chan_setLfo]
  iir1 _ _ := State.iir1_setLfo ..
  bq _ _ _ := by rw [State.chan_setLfo]
  dcc _ _ := by rw [State.chan_setLfo]
  lfo q hq := by rw [State.lfo_setLfo, if_neg (List.ne_of_not_mem_cons hq)]
  noise _ := by rw [State.noise_setLfo]

theorem State.lfo_setLfo_yields (s : State) (r : LfoRef) (l : Lfo) (ws : List Word) :
    ((s.setLfo r l).yields ws).lfo r = l := by
  rw [State.lfo_yields, State.lfo_setLfo, if_pos rfl]

/-- LFO_STEP has no precondition: it completes on both oscillators. -/
theorem exec_lfoStep (s : State) {i : InstId} {r : LfoRef} (h : lfoOfId i = some r) :
    exec (.lfoStep i) s =
      .next ((s.setLfo r (lfoStep (s.lfo r)).2).yields [(lfoStep (s.lfo r)).1]) := by
  show execLfoStep i s = _
  simp only [execLfoStep, h, named_some, bind_ok, outcomeOf_ok]

end

/-- Settles O44: the oscillator named steps (`lfoStep_steps`), and replacing it changes nothing else
(`Unchanged.setLfo`). -/
theorem lfoStepResult : Obligations.LfoStepResult := by
  intro i r s hi
  refine ⟨_, _, exec_lfoStep s hi, rfl, ?_, (Unchanged.setLfo (lfoStep_clear _)).yields _⟩
  rw [State.lfo_setLfo_yields]
  exact lfoStep_steps (s.lfo r)

end Sys2Proof.Machine

/-! # The DC cut (rule R330) -/

namespace Sys2Proof.Machine

/-- A DC cut replaced by one with the same coefficient: nothing changes but its stream state. -/
theorem Unchanged.setDcc {s : State} {c : Ch} {d : Dcc} (h : d.clear = (s.chan c).dccut.clear) :
    Unchanged { dccs := [c] } s (s.setChan c { s.chan c with dccut := d }) := by
  have hnamed : c ∈ [c] := List.mem_singleton_self c
  exact .setChan (by simp only [Chan.clear, h]) (fun _ _ => rfl) (fun _ _ => rfl) (fun _ _ => rfl)
    (fun _ _ => rfl) (absurd hnamed)

/-- DCCUT_PROCESS has no precondition: it completes on both channels. -/
theorem exec_dccutProcess (s : State) {i : InstId} {c : Ch} (h : dccOfId i = some c) (x : Word) :
    exec (.dccutProcess i x) s =
      .next ((s.setChan c { s.chan c with dccut := (dccProcess (s.chan c).dccut x).2 }).yields
        [(dccProcess (s.chan c).dccut x).1]) := by
  show execDccutProcess i x s = _
  simp only [execDccutProcess, h, named_some, bind_ok, outcomeOf_ok]

/-- Settles O35: the DC cut named steps (`dccProcess_steps`), and replacing it changes nothing else
(`Unchanged.setDcc`). -/
theorem dccutProcessResult : Obligations.DccutProcessResult := by
  intro i c x s hi
  refine ⟨_, _, exec_dccutProcess s hi x, rfl, ?_, (Unchanged.setDcc (dccProcess_clear _ x)).yields _⟩
  rw [State.chan_yields, State.chan_setChan_same]
  exact dccProcess_steps (s.chan c).dccut x

end Sys2Proof.Machine

/-! # The oversampler (rules R331 and R332)

Where its precondition holds, OS_UP or OS_DOWN is BQ_PROCESS of the same biquad on the word it filters, so both
results are those of `bqProcessResult`. -/

namespace Sys2Proof.Machine

section
variable {f j : Nat}

theorem osUpStep_eq_bqProcess (hf : 2 ≤ f) (hj : j < f) (q : Bq) (u : Word) :
    osUpStep f q u j = .ok (bqProcess q (if j = 0 then mul32 (nat32 f) u else 0)) := by
  unfold osUpStep
  rw [if_neg (Nat.not_lt.mpr hf), if_neg (Nat.not_le.mpr hj)]

theorem osDownStep_eq_bqProcess (hf : 2 ≤ f) (q : Bq) (z : Word) :
    osDownStep f q z = .ok (bqProcess q z) :=
  if_neg (Nat.not_lt.mpr hf)

end

section
variable {s : State} {i : InstId} {c : Ch} {r : BqRole}

theorem exec_osUp_eq_bqProcess (hi : bqOfId i = some (c, r)) (hf : 2 ≤ s.eng.factor) {j : Word}
    (hj : j.toNat < s.eng.factor) (u : Word) :
    exec (.osUp i u j) s =
      exec (.bqProcess i (if j.toNat = 0 then mul32 (nat32 s.eng.factor) u else 0)) s := by
  rw [exec_osUp s hi, osUpStep_eq_bqProcess hf hj, bind_ok, outcomeOf_ok, exec_bqProcess s hi]

theorem exec_osDown_eq_bqProcess (hi : bqOfId i = some (c, r)) (hf : 2 ≤ s.eng.factor) (z : Word) :
    exec (.osDown i z) s = exec (.bqProcess i z) s := by
  rw [exec_osDown s hi, osDownStep_eq_bqProcess hf, bind_ok, outcomeOf_ok, exec_bqProcess s hi]

end

/-- Settles O45: OS_UP is BQ_PROCESS on the zero-stuffed input (`exec_osUp_eq_bqProcess`). -/
theorem osUpResult : Obligations.OsUpResult := by
  intro i c r u j s hi hf hj
  rw [exec_osUp_eq_bqProcess hi hf hj]
  exact bqProcessResult i c r _ s hi

/-- Settles O46: OS_DOWN is BQ_PROCESS on its input (`exec_osDown_eq_bqProcess`). -/
theorem osDownResult : Obligations.OsDownResult := by
  intro i c r z s hi hf
  rw [exec_osDown_eq_bqProcess hi hf]
  exact bqProcessResult i c r z s hi

end Sys2Proof.Machine

/-! # The checks of a command record (rules R142 and R450 to R455)

The decoder makes the checks that need no open parameter, and the command's own meaning the rest; together they
give the status of rule R451. -/

namespace Sys2Proof.Machine

open Sys2Proof.Config (Params)

/-! ## The status of a decoded command -/

/-- The status of CFG_VECTOR (rule R425). -/
def vectorStatus (P : Params) (v : List Word) : Status :=
  match vectorMode P v with
  | .rejected e => e
  | .bypass => .ok
  | .advanced _ => .ok

/-- The status that a command's meaning answers, once its record is decoded (rules R423 and R425; log
entry 19). -/
def commandStatus (P : Params) : Instr → Status
  | .cfgPreset _ id => if nPresets P ≤ id.toNat then .badPreset else .ok
  | .cfgVector _ v => vectorStatus P v
  | _ => .ok

/-- The status of a record of which the decoder makes `d`. -/
def decodedStatus (P : Params) : Except Status Instr → Status
  | .ok i => commandStatus P i
  | .error e => e

section
variable {P : Params} {v0 : Word} {rest : List Word}

theorem vectorStatus_of_long {v : List Word} (h : vecMax < v.length) : vectorStatus P v = .badLength := by
  rw [vectorStatus, vectorMode_of_long h]

theorem vectorStatus_of_bypass (hlen : rest.length < vecMax) (hb : eq32 v0 P.sentinelBypass = true) :
    vectorStatus P (v0 :: rest) = .ok := by
  rw [vectorStatus, vectorMode_of_bypass hlen hb]

theorem vectorStatus_of_preset (hlen : rest.length < vecMax) (hb : eq32 v0 P.sentinelBypass = false)
    (hp : eq32 v0 P.sentinelPreset = true) :
    vectorStatus P (v0 :: rest) =
      if rest.length < 1 then .badLength
      else if presetOfIndex P (rest.getD 0 0) = none then .badPreset else .ok := by
  cases rest with
  | nil => rw [vectorStatus, vectorMode_of_preset_alone hb hp]; rfl
  | cons x rest =>
    rw [vectorStatus, if_neg (by simp), List.getD_cons_zero]
    cases hx : presetOfIndex P x with
    | none => rw [vectorMode_of_bad_preset hlen hb hp hx]; rfl
    | some p => rw [vectorMode_of_preset hlen hb hp hx]; rfl

theorem vectorStatus_of_advanced (hlen : rest.length < vecMax) (hb : eq32 v0 P.sentinelBypass = false)
    (hp : eq32 v0 P.sentinelPreset = false) :
    vectorStatus P (v0 :: rest) = if rest.length < 16 then .badLength else .ok := by
  by_cases hshort : rest.length < 16
  · rw [vectorStatus, vectorMode_of_short hshort hb hp, if_pos hshort]
  · have htake : ((v0 :: rest).take 17).length = 17 := by simp; omega
    obtain ⟨p, hw⟩ := paramsOfWords_isSome htake
    rw [vectorStatus, vectorMode_of_advanced hlen hb hp hw, if_neg hshort]

end

/-! ## Rule R451 for one opcode -/

section
variable (P : Params) {h : Word} (w : List Word)

/-- The length and preset checks of CFG_VECTOR, with its count `l` and its elements `v`. -/
theorem validate_cfgVector {l : Word} {v : List Word} (hop : opOf h = 5) (hrsv : rsvOf h = 0)
    (himm : immOf h = 0) :
    validate P h (l :: v) =
      if l = 0 ∨ vecMax < l.toNat ∨ v.length ≠ l.toNat then .badLength
      else if eq32 (v.getD 0 0) P.sentinelBypass = true then .ok
      else if eq32 (v.getD 0 0) P.sentinelPreset = true then
        if l.toNat < 2 then .badLength
        else if presetOfIndex P (v.getD 1 0) = none then .badPreset else .ok
      else if l.toNat < 17 then .badLength else .ok := by
  have hlen : (l :: v).length ≠ 1 + l.toNat ↔ v.length ≠ l.toNat := by rw [List.length_cons]; omega
  unfold validate
  simp only [hop, hrsv, himm, hlen, List.getD_cons_zero, List.getD_cons_succ]
  cases eq32 (v.getD 0 0) P.sentinelBypass <;> cases eq32 (v.getD 0 0) P.sentinelPreset <;> simp

/-- The checks of CFG_VECTOR are the decoder's on the count and the meaning's on the elements. -/
theorem validate_cfgVector_eq (hop : opOf h = 5) (hrsv : rsvOf h = 0) (himm : immOf h = 0) :
    validate P h w = decodedStatus P (decodePayload 5 (preserveOf h) (immOf h) w) := by
  match w with
  | [] => simp [validate, hop, hrsv, himm, decodePayload_cfgVector_nil, decodedStatus]
  | l :: v =>
    rw [decodePayload_cfgVector, validate_cfgVector P hop hrsv himm]
    by_cases hcount : v.length = l.toNat
    swap
    · rw [if_pos (.inr (.inr hcount)), if_neg hcount]
      rfl
    rw [if_pos hcount]
    show _ = vectorStatus P v
    match v with
    | [] =>
      have hl : l = 0 := BitVec.eq_of_toNat_eq hcount.symm
      rw [if_pos (.inl hl)]
      rfl
    | v0 :: rest =>
      have hl : l ≠ 0 := by rintro rfl; cases hcount
      rw [← hcount]
      by_cases hlong : vecMax < (v0 :: rest).length
      · rw [vectorStatus_of_long hlong, if_pos (.inr (.inl hlong))]
      · have hlen : rest.length < vecMax := by rw [List.length_cons] at hlong; omega
        have hcheck : ¬(l = 0 ∨ vecMax < (v0 :: rest).length ∨ (v0 :: rest).length ≠ (v0 :: rest).length) := by
          rintro (h0 | h0 | h0)
          exacts [hl h0, hlong h0, h0 rfl]
        rw [if_neg hcheck, List.getD_cons_zero, List.getD_cons_succ, List.length_cons]
        cases hb : eq32 v0 P.sentinelBypass with
        | true => rw [vectorStatus_of_bypass hlen hb, if_pos rfl]
        | false =>
          cases hp : eq32 v0 P.sentinelPreset with
          | true => simp [vectorStatus_of_preset hlen hb hp]
          | false =>
            have hshort : rest.length + 1 < 17 ↔ rest.length < 16 := by omega
            simp [vectorStatus_of_advanced hlen hb hp, hshort]

/-- Once the header has passed, VALIDATE is the payload decoder's status, and then the command's own. -/
theorem validate_of_portFields (hrsv : rsvOf h = 0) (hf : PortFields (opOf h) (preserveOf h) (immOf h)) :
    validate P h w = decodedStatus P (decodePayload (opOf h) (preserveOf h) (immOf h) w) := by
  obtain ⟨hrange, hkeep, himm⟩ := hf
  by_cases h5 : opOf h = 5
  · rw [validate_cfgVector_eq P w h5 hrsv (of_not_not fun hi => by have := himm hi; omega), h5]
  unfold validate
  simp only
  rw [if_neg (by omega), if_neg (not_not.mpr hrsv), if_neg fun hk => hkeep hk.1 hk.2,
    if_neg fun hi => hi.2 (himm hi.1)]
  have hops :
      opOf h = 1 ∨ opOf h = 2 ∨ opOf h = 3 ∨ opOf h = 4 ∨ opOf h = 6 ∨ opOf h = 7 ∨ opOf h = 8 := by
    omega
  rcases hops with hop | hop | hop | hop | hop | hop | hop <;> rw [hop]
  · rw [decodePayload_reset]
    cases w <;> simp [decodedStatus, commandStatus]
  · rw [decodePayload_cfgBypass]
    cases w <;> simp [decodedStatus, commandStatus]
  · rw [decodePayload_cfgPreset]
    cases w <;> simp [decodedStatus, commandStatus]
  · rw [decodePayload_cfgAdvanced]
    by_cases hlen : w.length = 17
    · obtain ⟨p, hp⟩ := paramsOfWords_isSome hlen
      simp [hp, hlen, decodedStatus, commandStatus]
    · simp [paramsOfWords_eq_none hlen, hlen, decodedStatus]
  · rw [decodePayload_processSample]
    match w with
    | [] | [_] | [_, _] | _ :: _ :: _ :: _ => simp [decodedStatus, commandStatus]
  · cases w with
    | nil => simp [decodePayload_processBlock_nil, decodedStatus]
    | cons n ws =>
      rw [decodePayload_processBlock]
      by_cases hlen : ws.length = 2 * n.toNat
      · obtain ⟨xs, hxs⟩ := pairsOfWords_isSome _ ws hlen
        simp [hlen, hxs, Nat.add_comm, decodedStatus, commandStatus]
      · simp [hlen, Nat.add_comm, decodedStatus]
  · rw [decodePayload_queryValid]
    cases w <;> simp [decodedStatus, commandStatus]

/-- VALIDATE is the decoder's status, and where the record decodes, the command's own (rule R451). -/
theorem validate_eq_decodedStatus (h : Word) : validate P h w = decodedStatus P (decode .host ⟨h, w⟩) := by
  show _ = decodedStatus P (decodeHost ⟨h, w⟩)
  unfold decodeHost
  simp only
  by_cases hop : opOf h < 1 ∨ 8 < opOf h
  · rw [validate, if_pos hop, if_pos hop]
    rfl
  by_cases hrsv : rsvOf h ≠ 0
  · rw [validate, if_neg hop, if_pos hrsv, if_neg hop, if_pos hrsv]
    rfl
  by_cases hkeep : preserveOf h = true ∧ (opOf h = 1 ∨ opOf h = 6 ∨ opOf h = 7 ∨ opOf h = 8)
  · rw [validate, if_neg hop, if_neg hrsv, if_pos hkeep, if_neg hop, if_neg hrsv, if_pos hkeep]
    rfl
  by_cases himm : immOf h ≠ 0 ∧ opOf h ≠ 3
  · rw [validate, if_neg hop, if_neg hrsv, if_neg hkeep, if_pos himm, if_neg hop, if_neg hrsv, if_neg hkeep,
      if_pos himm]
    rfl
  rw [if_neg hop, if_neg hrsv, if_neg hkeep, if_neg himm]
  exact validate_of_portFields P w (of_not_not hrsv)
    ⟨by omega, fun hk ho => hkeep ⟨hk, ho⟩, fun hi => of_not_not fun ho => himm ⟨hi, ho⟩⟩

end

/-! ## What a command answers -/

section
variable {s t : State}

/-- A command that its own meaning rejects changes the answer alone (rule R453). -/
theorem exec_of_commandStatus_ne_ok {i : Instr} (hi : commandStatus params i ≠ .ok) (s : State) :
    exec i s = .next { s with reply := [statusWord (commandStatus params i)] } := by
  cases i with
  | cfgPreset keep id =>
    have hid : nPresets params ≤ id.toNat := of_not_not fun hn => hi (if_neg hn)
    show Host.Outcome.next (cfgPreset params keep id s) = _
    rw [cfgPreset, presetRow_eq_none hid, commandStatus, if_pos hid]
    rfl
  | cfgVector keep v =>
    simp only [commandStatus, vectorStatus] at hi ⊢
    split at hi
    next e he => exact exec_cfgVector_of_rejected he keep s
    all_goals exact absurd rfl hi
  | _ => exact absurd rfl hi

/-- An answer of status OK and further words. -/
theorem head_reply_of_accept {α : Type} {r : Except Fault (α × State)} {f : α → List Word}
    (h : outcomeOf (do let a ← r; .ok (a.2.accept (f a.1))) = .next t) :
    t.reply.head? = some (statusWord .ok) := by
  obtain ⟨a, _, ht⟩ := bind_eq_ok.mp (outcomeOf_eq_next.mp h)
  cases ht
  rfl

/-- The first result word of a command that completes is its status (rule R450). -/
theorem head_reply_of_exec {i : Instr} (hi : i.origin = .host) (h : exec i s = .next t) :
    t.reply.head? = some (statusWord (commandStatus params i)) := by
  by_cases hok : commandStatus params i = .ok
  swap
  · rw [exec_of_commandStatus_ne_ok hok] at h
    cases h
    rfl
  rw [hok]
  cases i with
  | reset | cfgBypass | cfgAdvanced | queryValid =>
    cases h
    rfl
  | cfgPreset keep id =>
    have hid : id.toNat < nPresets params := by
      by_contra hn
      simp [commandStatus, Nat.not_lt.mp hn] at hok
    cases h
    rw [cfgPreset, presetRow, List.getElem?_eq_getElem hid]
    rfl
  | cfgVector keep v =>
    cases h
    simp only [commandStatus, vectorStatus] at hok
    unfold cfgVector
    split
    · rfl
    · rfl
    next e he =>
      rw [he] at hok
      subst hok
      rfl
  | processSample a b => exact head_reply_of_accept (f := Pair.words) h
  | processBlock xs => exact head_reply_of_accept (f := wordsOfPairs) h
  | _ => cases hi

end

/-- Settles O6: `step` answers the state itself where the queue is empty. -/
theorem idleStepKeepsTheState : Obligations.IdleStepKeepsTheState := by
  intro s hport
  unfold step
  rw [hport]

/-- Settles O7: the decoder rejects the record (`step_of_decode_error`), or the command's meaning does
(`exec_of_commandStatus_ne_ok`); the status is that of rule R451 (`validate_eq_decodedStatus`). -/
theorem rejectedCommandsChangeNothing : Obligations.RejectedCommandsChangeNothing := by
  intro s h w rest hport
  rw [validate_eq_decodedStatus]
  intro hne
  cases hd : decode .host ⟨h, w⟩ with
  | error e => exact step_of_decode_error hport hd
  | ok i =>
    rw [hd] at hne
    rw [stepRunsTheDecodedInstruction s _ rest i hport hd]
    exact exec_of_commandStatus_ne_ok hne _

/-- Settles O8: the step completes (`completes_step`), and the first word of its answer is the status of
rule R451. -/
theorem hostCommandsAreAnswered : Obligations.HostCommandsAreAnswered := by
  intro s h w rest hinv hport
  obtain ⟨t, ht, _, htport⟩ := completes_step hinv hport
  refine ⟨t, ht, htport, ?_⟩
  rw [validate_eq_decodedStatus]
  cases hd : decode .host ⟨h, w⟩ with
  | error e =>
    rw [step_of_decode_error hport hd] at ht
    cases ht
    rfl
  | ok i =>
    rw [stepRunsTheDecodedInstruction s _ rest i hport hd] at ht
    exact head_reply_of_exec (origin_of_decode_host hd) ht

end Sys2Proof.Machine

/-! # The deriver (rules R400 to R415) -/

namespace Sys2Proof.Machine

open Sys2Proof.Config (Params TopoCh)

/-! ## The deriver writes no stream state -/

/-- Two channels agree on every element of stream state (rule R42). -/
structure Chan.SameStream (x y : Chan) : Prop where
  line : ∀ r, (y.line r).buf = (x.line r).buf ∧ (y.line r).cursor = (x.line r).cursor
  apm : ∀ r, (y.apm r).buf = (x.apm r).buf ∧ (y.apm r).wpos = (x.apm r).wpos ∧
    (y.apm r).rpos = (x.apm r).rpos
  iir1 : ∀ r, (y.iir1 r).x1 = (x.iir1 r).x1 ∧ (y.iir1 r).y1 = (x.iir1 r).y1
  bq : ∀ r, (y.bq r).x1 = (x.bq r).x1 ∧ (y.bq r).x2 = (x.bq r).x2 ∧ (y.bq r).y1 = (x.bq r).y1 ∧
    (y.bq r).y2 = (x.bq r).y2
  dcc : y.dccut.x1 = x.dccut.x1 ∧ y.dccut.y1 = x.dccut.y1

section
variable {x y z : Chan}

theorem Chan.SameStream.trans (h : x.SameStream y) (h' : y.SameStream z) : x.SameStream z where
  line r := by simp [h'.line r, h.line r]
  apm r := by simp [h'.apm r, h.apm r]
  iir1 r := by simp [h'.iir1 r, h.iir1 r]
  bq r := by simp [h'.bq r, h.bq r]
  dcc := by simp [h'.dcc, h.dcc]

theorem deriveChan_sameStream (P : Params) (p : ParamVec) (fsi : DWord) (t : TopoCh) (x : Chan) :
    x.SameStream (deriveChan P p fsi t x) where
  line r := by
    rcases r with ⟨_ | _ | _ | _ | _ | _ | _ | _ | _⟩ | _ | _ | _ | _ | _ | _ <;> exact ⟨rfl, rfl⟩
  apm r := by
    obtain ⟨ts, tm, g, hr⟩ := deriveChan_apm P p fsi t x r
    rw [hr]
    exact ⟨rfl, rfl, rfl⟩
  iir1 r := by cases r <;> exact ⟨rfl, rfl⟩
  bq r := by cases r <;> exact ⟨rfl, rfl, rfl, rfl⟩
  dcc := ⟨rfl, rfl⟩

/-- Each modulated all-pass keeps all but its feedback and decay (rule R403). -/
theorem unspecifiedChan_apm (p : ParamVec) (c : Ch) (x : Chan) (r : ApmRole) :
    ∃ u, (unspecifiedChan p c x).apm r = (x.apm r).unspecified u := by
  cases r with
  | diff i => exact ⟨Config.unspecified32 p (apmId c (.diff i)) 0, by simp [Chan.apm, unspecifiedChan]⟩
  | dampAp1 => exact ⟨_, rfl⟩
  | dampAp2 => exact ⟨_, rfl⟩
  | cbassAp3S1 => exact ⟨_, rfl⟩

theorem unspecifiedChan_sameStream (p : ParamVec) (c : Ch) (x : Chan) :
    x.SameStream (unspecifiedChan p c x) where
  line _ := ⟨rfl, rfl⟩
  apm r := by
    obtain ⟨u, hr⟩ := unspecifiedChan_apm p c x r
    rw [hr]
    exact ⟨rfl, rfl, rfl⟩
  iir1 r := by cases r <;> exact ⟨rfl, rfl⟩
  bq r := by cases r <;> exact ⟨rfl, rfl, rfl, rfl⟩
  dcc := ⟨rfl, rfl⟩

end

/-- In range a channel is the formulas'; out of range its numeric registers are left open (rule R403). -/
theorem derive_chan (P : Params) (p : ParamVec) (s : State) (c : Ch) :
    (derive P p s).chan c =
      if inRange p then deriveChan P p (deriveEngine P p).fsi (P.topo.ch c) (s.chan c)
      else unspecifiedChan p c (deriveChan P p (deriveEngine P p).fsi (P.topo.ch c) (s.chan c)) := by
  unfold derive
  split <;> cases c <;> rfl

theorem derive_chan_sameStream (P : Params) (p : ParamVec) (s : State) (c : Ch) :
    (s.chan c).SameStream ((derive P p s).chan c) := by
  rw [derive_chan]
  split
  · exact deriveChan_sameStream ..
  · exact (deriveChan_sameStream ..).trans (unspecifiedChan_sameStream ..)

/-- DERIVE writes no stream state (rule R415). -/
theorem derive_sameStream (P : Params) (p : ParamVec) (s : State) : SameStream s (derive P p s) where
  line c := (derive_chan_sameStream P p s c).line
  apm c := (derive_chan_sameStream P p s c).apm
  iir1 r := by
    rcases r with ⟨c, r⟩ | _ | _
    · exact (derive_chan_sameStream P p s c).iir1 r
    all_goals unfold derive; split <;> exact ⟨rfl, rfl⟩
  bq c := (derive_chan_sameStream P p s c).bq
  dcc c := (derive_chan_sameStream P p s c).dcc
  npos := by rw [derive_noise]
  lfo r := by unfold derive; split <;> cases r <;> exact ⟨rfl, rfl, rfl⟩

/-- Settles O54: DERIVE has no precondition, and writes no stream state (`derive_sameStream`). -/
theorem deriveWritesNoStreamState : Obligations.DeriveWritesNoStreamState := by
  intro p s
  refine ⟨(derive params p s).yields [], rfl, rfl, ?_, ?_, ?_, ?_, ?_, ?_⟩
  · exact (SameConfig.refl _).with_other_fields _ _ _ _ _
  · have h := derive_sameStream params p s
    exact ⟨h.line, h.apm, h.iir1, h.bq, h.dcc, h.npos, h.lfo⟩
  · exact derive_mode params p s
  · exact congrArg Noise.tab (derive_noise params p s)
  · exact derive_port params p s
  · show (derive params p s).reply = s.reply
    unfold derive
    split <;> rfl

/-! ## The deriver reads nothing of the state -/

section
variable (P : Params) (p : ParamVec)

/-- Up to stream state the derived channel does not depend on the channel before. -/
theorem deriveChan_clear_eq (fsi : DWord) (t : TopoCh) (x y : Chan) :
    (deriveChan P p fsi t x).clear = (deriveChan P p fsi t y).clear := by
  have hd : (deriveChan P p fsi t x).clear.diff = (deriveChan P p fsi t y).clear.diff := by
    ext i hi : 1
    simp [deriveChan, Chan.clear, setApmRegs, Apm.clear]
  unfold deriveChan Chan.clear at hd ⊢
  simp only at hd ⊢
  rw [hd]
  rfl

/-- The parts of a state that neither the deriver nor the clearing of stream state sets: `MODE`, the noise
table, and the model's own fields. -/
def State.withRest (t s : State) : State :=
  { t with
    mode := s.mode, noise := s.noise.clear, port := s.port, reply := s.reply, opResult := s.opResult }

/-- Up to stream state the derived registers do not depend on the state before (rule R400). -/
theorem derive_clearStream_eq (s s' : State) :
    (derive P p s').clearStream = (derive P p s).clearStream.withRest s' := by
  have hf : (deriveFormulas P p s').clearStream = (deriveFormulas P p s).clearStream.withRest s' := by
    simp only [deriveFormulas, State.clearStream, State.withRest,
      deriveChan_clear_eq P p _ _ s'.left s.left, deriveChan_clear_eq P p _ _ s'.right s.right]
    rfl
  unfold derive
  split
  · exact hf
  · simp only [unspecifiedRegs, State.clearStream, State.withRest, deriveFormulas, ← unspecifiedChan_clear,
      deriveChan_clear_eq P p _ _ s'.left s.left, deriveChan_clear_eq P p _ _ s'.right s.right]
    rfl

end

/-- Settles O55: clearing stream state keeps the configuration registers, and after it the two derived states
differ in the parts that hold none (`derive_clearStream_eq`). -/
theorem deriveReadsNoRegister : Obligations.DeriveReadsNoRegister := by
  intro P p s s'
  have h : SameConfig (derive P p s) ((derive P p s).clearStream.withRest s') :=
    (derive P p s).clearStream_sameConfig.with_other_fields _ _ _ _ _
  rw [← derive_clearStream_eq] at h
  exact h.trans (derive P p s').clearStream_sameConfig.symm

/-! ## The structure of the derived state -/

/-- Settles O60: the factor by `factorOf_bounds`, the lengths and the readiness by what the deriver does to a
channel's lengths (`derive_derived`). -/
theorem derivedStructureIsWithinBounds : Obligations.DerivedStructureIsWithinBounds := by
  intro P p s hP
  refine ⟨?_, fun c => ⟨(derive_derived hP p s c).ready, fun r => ?_, fun r => ?_⟩⟩
  · rw [derive_factor]
    exact factorOf_bounds p.oversample
  · obtain ⟨n, hline, _, hn⟩ := (derive_derived hP p s c).line r
    rw [hline]
    exact hn
  · obtain ⟨_, _, hwindow⟩ := (derive_derived hP p s c).apm_window r
    exact hwindow

/-! ## The engine's scalars (rule R404) -/

theorem factorOf_of_nan {w : Word} (h : val32 w = .nan) : factorOf w = 1 := by
  unfold factorOf
  rw [h]

theorem factorOf_of_inf {w : Word} {neg : Bool} (h : val32 w = .inf neg) :
    factorOf w = if neg then 1 else 4 := by
  unfold factorOf
  rw [h]
  rfl

theorem factorOf_of_fin {w : Word} {neg : Bool} {m : Nat} {e : Int} (h : val32 w = .fin neg m e) :
    (factorOf w : Int) = min (max (truncFin neg m e) 1) 4 := by
  simp only [factorOf, h, osMax]
  omega

/-- In range DERIVE writes the formulas' registers. -/
theorem derive_of_inRange (P : Params) {p : ParamVec} (h : inRange p = true) (s : State) :
    derive P p s = deriveFormulas P p s := if_pos h

/-- Settles O56: the factor by the datum of the oversample word, the other scalars by `deriveEngine`. -/
theorem derivedScalars : Obligations.DerivedScalars := by
  intro P p s e w half two one
  have hfactor : e.factor = factorOf p.oversample := derive_factor P p s
  refine ⟨fun h => ?_, fun neg h => ?_, fun neg m x h => ?_, fun h => ?_⟩
  · rw [hfactor, factorOf_of_nan h]
  · rw [hfactor, factorOf_of_inf h]
  · rw [hfactor, factorOf_of_fin h]
  · have he : e = deriveEngine P p := congrArg State.eng (derive_of_inRange P h s)
    rw [he]
    exact ⟨rfl, rfl, rfl, rfl, rfl, rfl, rfl, rfl, rfl, rfl⟩

/-- Settles O59: in range both oscillators are `deriveLfo`'s and both smoothers one-pole low-passes. -/
theorem derivedOscillators : Obligations.DerivedOscillators := by
  intro P p s h t fsi w1 w2 pole
  have ht : t = deriveFormulas P p s := derive_of_inRange P h s
  rw [ht]
  exact ⟨rfl, rfl, rfl, rfl, iir1Lpf_coefficients P lfoLpfHz fsi s.lfo1Lpf,
    iir1Lpf_coefficients P lfoLpfHz fsi s.lfo2Lpf⟩

/-! ## Lengths, windows and tap offsets (rules R405 to R409) -/

section
variable {t fs : DWord} {lo hi : Nat}

theorem tos_of_nan (h : val64 (mul64 t fs) = .nan) : tos t fs lo hi = lo :=
  if_pos (by simp [isNaN64, h])

theorem tos_of_neg (h : lt64 (mul64 t fs) 0 = true) : tos t fs lo hi = lo :=
  if_pos (by rw [h, Bool.or_true])

/-- A value that another is at most is no NaN. -/
theorem isNaN64_of_le64_right {a b : DWord} (h : le64 a b = true) : isNaN64 b = false := by
  unfold le64 at h
  unfold isNaN64
  cases hb : val64 b with
  | nan => rw [hb] at h; cases ha : val64 a <;> simp [ha, Num.le, Num.lt, Num.eq] at h
  | _ => rfl

theorem tos_of_ge (h0 : lt64 (mul64 t fs) 0 = false) (h : le64 (nat64 hi) (mul64 t fs) = true) :
    tos t fs lo hi = hi := by
  simp only [tos, h0, h, isNaN64_of_le64_right h, Bool.or_false, Bool.false_eq_true, if_false, if_true]

theorem tos_of_fin {neg : Bool} {m : Nat} {e : Int} (hb : lo ≤ hi)
    (hv : val64 (mul64 t fs) = .fin neg m e) (h0 : lt64 (mul64 t fs) 0 = false)
    (h : le64 (nat64 hi) (mul64 t fs) = false) :
    (tos t fs lo hi : Int) = min (max (floorFin neg m e) lo) hi := by
  have hn : isNaN64 (mul64 t fs) = false := by simp [isNaN64, hv]
  simp only [tos, h0, h, hn, hv, Bool.or_false, Bool.false_eq_true, if_false]
  omega

end

/-- Two channels agree on every length, window and tap offset. -/
structure Chan.SameLengths (x y : Chan) : Prop where
  line : ∀ r, (y.line r).size = (x.line r).size
  apm : ∀ r, (y.apm r).size = (x.apm r).size ∧ (y.apm r).msize = (x.apm r).msize
  nTaps : y.nTaps = x.nTaps
  tap_off : ∀ k : Fin 18, y.taps[k].off = x.taps[k].off

theorem Chan.SameLengths.refl (x : Chan) : x.SameLengths x :=
  ⟨fun _ => rfl, fun _ => ⟨rfl, rfl⟩, rfl, fun _ => rfl⟩

/-- A vector out of range leaves the structural registers to the formulas (rule R403). -/
theorem unspecifiedChan_sameLengths (p : ParamVec) (c : Ch) (x : Chan) :
    x.SameLengths (unspecifiedChan p c x) where
  line _ := rfl
  apm r := by
    obtain ⟨u, hr⟩ := unspecifiedChan_apm p c x r
    rw [hr]
    exact ⟨rfl, rfl⟩
  nTaps := rfl
  tap_off k := by simp [unspecifiedChan]

theorem derive_chan_sameLengths (P : Params) (p : ParamVec) (s : State) (c : Ch) :
    (deriveChan P p (deriveEngine P p).fsi (P.topo.ch c) (s.chan c)).SameLengths
      ((derive P p s).chan c) := by
  rw [derive_chan]
  split
  · exact .refl _
  · exact unspecifiedChan_sameLengths ..

section
variable (P : Params) (p : ParamVec)

/-- Both lengths that SET_APM gives (rule R407). -/
theorem setApmRegs_lengths (fsi ts tm : DWord) (g : Word) (cap : Nat) (a : Apm) :
    (setApmRegs P p fsi ts tm g cap a).size = tos ts fsi 1 (cap - 1) ∧
    (setApmRegs P p fsi ts tm g cap a).msize =
      tos (mul64 (widen p.wander) tm) fsi 1 (cap - (setApmRegs P p fsi ts tm g cap a).size) := ⟨rfl, rfl⟩

theorem deriveTap_offset (t : TopoCh) (k : Nat) :
    (deriveTap P p t k).off =
      match t.erTaps[k]? with
      | some e => tos (mul64 e.1 (widen p.ereffactor)) (widen p.rate) 1 (P.capErTap - 1)
      | none => 0 := by
  unfold deriveTap
  cases t.erTaps[k]? <;> rfl

end

/-- Settles O57: TOS by its branches; a channel has the lengths of `deriveChan` for every vector
(`derive_chan_sameLengths`), and each of those is the one of its formula. -/
theorem derivedLengths : Obligations.DerivedLengths := by
  refine ⟨fun t fs lo hi hb => ⟨tos_of_nan, tos_of_neg, tos_of_ge, fun neg m e => tos_of_fin hb⟩, ?_⟩
  intro P p s c x t rate fsi er window
  have h : (deriveChan P p fsi t (s.chan c)).SameLengths x := derive_chan_sameLengths P p s c
  have hwindow : ∀ r ts tm g, (deriveChan P p fsi t (s.chan c)).apm r =
      setApmRegs P p fsi ts tm g (apmCap P r) ((s.chan c).apm r) → window (x.apm r) ts tm (apmCap P r) := by
    intro r ts tm g hr
    obtain ⟨hsize, hmsize⟩ := hr ▸ h.apm r
    obtain ⟨hn, hm⟩ := setApmRegs_lengths P p fsi ts tm g (apmCap P r) ((s.chan c).apm r)
    exact ⟨hsize.trans hn, hmsize.trans (hsize ▸ hm)⟩
  refine ⟨fun hd => ?pre, fun hd => ?dry, h.line (.dl .erTap), h.line (.dl .erXdelay), h.line .erXap,
    fun hn => ?nTaps, fun k => ?taps, h.line (.dl .crossDelay), h.line (.dl .dampDelay), h.line (.dl .cbassD1),
    h.line (.dl .cbassD2), h.line (.dl .outDelay), h.line .cbassAp2S0, h.line .cbassAp2S1, h.line .cbassAp3S0,
    h.line .cbassAp3S2, h.line .comb, fun i => ?diff, hwindow .dampAp1 _ _ _ rfl, hwindow .dampAp2 _ _ _ rfl,
    hwindow .cbassAp3S1 _ _ _ rfl⟩
  case pre => exact ⟨(h.line (.dl .preWet)).trans (if_pos hd), (h.line (.dl .preDry)).trans (if_pos hd)⟩
  case dry =>
    have hd' : ¬ le64 0 (widen p.delay) = true := Bool.eq_false_iff.mp hd
    exact ⟨(h.line (.dl .preWet)).trans (if_neg hd'), (h.line (.dl .preDry)).trans (if_neg hd')⟩
  case nTaps => exact (congrArg Fin.val h.nTaps).trans (Nat.min_eq_left hn)
  case taps =>
    rw [h.tap_off, deriveChan_tap]
    exact deriveTap_offset P p t k
  case diff => exact hwindow (.diff i) _ _ P.topo.diffG[i] (deriveChan_diff P p fsi t (s.chan c) i)

end Sys2Proof.Machine

/-! # The configuration commands (rules R420 to R425 and R431) -/

namespace Sys2Proof.Machine

open Sys2Proof.Config (Params)

/-! ## CONFIGURE (rule R421) -/

section
variable {P : Params} {s t u : State}

/-- No stream state is `MODE` or a field of the model's own. -/
theorem StreamCleared.with_other_fields (h : StreamCleared t) (m : Mode) (ws : List Word) :
    StreamCleared { t with mode := m, reply := ws } where
  line := h.line
  apm := h.apm
  iir1 := h.iir1
  bq := h.bq
  dcc := h.dcc
  npos := h.npos
  lfo := h.lfo

theorem StreamKept.with_other_fields (h : StreamKept s t) (m : Mode) (ws : List Word) :
    StreamKept s { t with mode := m, reply := ws } where
  line := h.line
  apm := h.apm
  iir1 := h.iir1
  bq := h.bq
  dcc := h.dcc
  npos := h.npos
  lfo := h.lfo

/-- What reducing the cursors keeps of a state, it keeps of one with the same stream state. -/
theorem StreamKept.of_sameStream (h : SameStream s t) (h' : StreamKept t u) : StreamKept s u where
  line c r := by simp [h'.line c r, h.line c r]
  apm c r := by simp [h'.apm c r, h.apm c r]
  iir1 r := by simp [h'.iir1 r, h.iir1 r]
  bq c r := by simp [h'.bq c r, h.bq c r]
  dcc c := by simp [h'.dcc c, h.dcc c]
  npos := h'.npos.trans h.npos
  lfo r := by simp [h'.lfo r, h.lfo r]

theorem configured_sameStream (P : Params) (p : Option ParamVec) (s : State) :
    SameStream s (configured P p s) := by
  cases p with
  | none => constructor <;> simp [configured]
  | some p => exact derive_sameStream P p s

theorem configured_opResult (P : Params) (p : Option ParamVec) (s : State) :
    (configured P p s).opResult = s.opResult := by
  cases p with
  | none => rfl
  | some p =>
    show (derive P p s).opResult = s.opResult
    unfold derive
    split <;> rfl

/-- An accepted configuration: the mode and the registers it asks for, stream state cleared or kept, the
answer OK, and nothing else. -/
structure Configures (P : Params) (keep : Bool) (m : Mode) (p : Option ParamVec) (s t : State) : Prop where
  mode : t.mode = m
  config : SameConfig (configured P p s) t
  noise_tab : t.noise.tab = s.noise.tab
  cleared : keep = false → StreamCleared t
  kept : keep = true → StreamKept s t
  reply : t.reply = [0]
  port : t.port = s.port
  opResult : t.opResult = s.opResult

theorem configures_configure (P : Params) (keep : Bool) (m : Mode) (p : Option ParamVec) (s : State) :
    Configures P keep m p s ((configure P keep m p s).accept []) where
  mode := rfl
  config := by
    rw [configure_eq]
    cases keep with
    | true => exact (State.reduceCursors_sameConfig _).with_other_fields _ _ _ _ _
    | false => exact (State.clearStream_sameConfig _).with_other_fields _ _ _ _ _
  noise_tab := configure_keepsTable P keep m p s
  cleared hk := by
    rw [configure_eq, hk]
    exact (State.clearStream_cleared (configured P p s)).with_other_fields _ _
  kept hk := by
    rw [configure_eq, hk]
    exact ((State.reduceCursors_kept _).of_sameStream (configured_sameStream P p s)).with_other_fields _ _
  reply := rfl
  port := configure_port P keep m p s
  opResult := by
    rw [configure_eq]
    cases keep <;> exact configured_opResult P p s

end

/-- Settles O12: every field of the answer is that of the reset state, but for the queue and the status word. -/
theorem resetCommandResult : Obligations.ResetCommandResult := fun _ => rfl

/-- Settles O19: CFG_BYPASS is CONFIGURE without parameters, which leaves the registers. -/
theorem cfgBypassResult : Obligations.CfgBypassResult := by
  intro keep s
  obtain ⟨hmode, hconfig, htab, hcleared, hkept, hreply, hport, hop⟩ :=
    configures_configure params keep .bypass none s
  exact ⟨_, rfl, hmode, hconfig, htab, hcleared, hkept, hreply, hport, hop⟩

/-- Settles O21: CFG_ADVANCED is CONFIGURE with its vector. -/
theorem cfgAdvancedResult : Obligations.CfgAdvancedResult := by
  intro keep p s
  obtain ⟨hmode, hconfig, htab, hcleared, hkept, hreply, hport, hop⟩ :=
    configures_configure params keep .active (some p) s
  exact ⟨_, rfl, hmode, hconfig, htab, hcleared, hkept, hreply, hport, hop⟩

/-- A preset in the table is configured as its row (rules R414 and R423). -/
theorem exec_cfgPreset_of_row {id : BitVec 16} {p : ParamVec} (h : presetRow params id.toNat = some p)
    (keep : Bool) (s : State) : exec (.cfgPreset keep id) s = exec (.cfgAdvanced keep p) s := by
  show Host.Outcome.next (cfgPreset params keep id s) = _
  rw [cfgPreset, h]
  rfl

/-- Settles O20: a row of the table is configured as CFG_ADVANCED configures it; beyond the table there is no
row, and the command is rejected. -/
theorem cfgPresetResult : Obligations.CfgPresetResult := by
  refine ⟨fun keep id s p hp => ?_, fun _ _ _ => rfl, fun P keep id s hid => ?_⟩
  · rw [exec_cfgPreset_of_row hp]
    exact cfgAdvancedResult keep p s
  · rw [cfgPreset, presetRow_eq_none hid]
    rfl

/-- Settles O28: QUERY_VALID answers `validWord`, which tests the mode. -/
theorem queryValidResult : Obligations.QueryValidResult := by
  intro s
  have hword : s.validWord = if s.mode = .active then 1 else 0 := by simp [State.validWord, State.isActive]
  rw [← hword]
  rfl

/-! ## The same configuration twice (rule R431) -/

section
variable {P : Params}

/-- A vector whose mode element is not the bypass sentinel selects parameters, or is rejected for a reason. -/
theorem vectorMode_cases {v0 : Word} {rest : List Word} (hb : eq32 v0 P.sentinelBypass = false) :
    (∃ p, vectorMode P (v0 :: rest) = .advanced p) ∨
      ∃ e, e ≠ .ok ∧ vectorMode P (v0 :: rest) = .rejected e := by
  unfold vectorMode
  simp only [hb, Bool.false_eq_true, if_false]
  split
  · exact .inr ⟨.badLength, nofun, rfl⟩
  split
  · split
    · exact .inr ⟨.badLength, nofun, rfl⟩
    · split
      · exact .inl ⟨_, rfl⟩
      · exact .inr ⟨.badPreset, nofun, rfl⟩
  · split
    · exact .inl ⟨_, rfl⟩
    · exact .inr ⟨.badLength, nofun, rfl⟩

/-- The record of a vector passes the checks only if its elements do: its count word is its length, or else
the decoder rejects the record. -/
theorem vectorStatus_of_validate {keep : Bool} {v : List Word}
    (h : validate P (encode (.cfgVector keep v)).header (encode (.cfgVector keep v)).payload = .ok) :
    vectorStatus P v = .ok := by
  have hd : decode .host (encode (.cfgVector keep v)) = decodePayload 5 keep 0 (countWord v.length :: v) :=
    decode_host_headerH _ _ _ _ (by decide) (fun _ => by decide) nofun
  rw [validate_eq_decodedStatus] at h
  change decodedStatus P (decode .host (encode (.cfgVector keep v))) = .ok at h
  rw [hd, decodePayload_cfgVector] at h
  split at h
  · exact h
  · cases h

theorem presetRow_of_validate {keep : Bool} {id : BitVec 16}
    (h : validate P (encode (.cfgPreset keep id)).header (encode (.cfgPreset keep id)).payload = .ok) :
    ∃ p, presetRow P id.toNat = some p := by
  rw [validate_eq_decodedStatus] at h
  change decodedStatus P (decode .host (encode (.cfgPreset keep id))) = .ok at h
  rw [decode_encode_of_host rfl rfl] at h
  have hid : id.toNat < nPresets P := by
    by_contra hn
    simp [decodedStatus, commandStatus, Nat.not_lt.mp hn] at h
  exact ⟨_, List.getElem?_eq_getElem hid⟩

end

/-- Every accepted configuration with parameters does what CFG_ADVANCED does with some vector. -/
theorem ConfiguresParameters.exec_eq {keep : Bool} {i : Instr} (h : ConfiguresParameters params keep i) :
    ∃ p, ∀ s, exec i s = exec (.cfgAdvanced keep p) s := by
  obtain ⟨hok, ⟨id, rfl⟩ | ⟨p, rfl⟩ | ⟨v0, rest, rfl, hb⟩⟩ := h
  · obtain ⟨p, hp⟩ := presetRow_of_validate hok
    exact ⟨p, exec_cfgPreset_of_row hp keep⟩
  · exact ⟨p, fun _ => rfl⟩
  · obtain ⟨p, hp⟩ | ⟨e, he, hm⟩ := vectorMode_cases (rest := rest) hb
    · exact ⟨p, exec_cfgVector_of_advanced hp keep⟩
    · have hstatus := vectorStatus_of_validate hok
      rw [vectorStatus, hm] at hstatus
      exact absurd hstatus he

/-- With `PRESERVE = 0` the state after depends on the vector and the noise table alone, but for the model's
queue and last internal result. -/
theorem configure_clearing_eq (P : Params) (p : ParamVec) {s s' : State} (htab : s.noise.tab = s'.noise.tab) :
    (configure P false .active (some p) s).accept [] =
      { (configure P false .active (some p) s').accept [] with port := s.port, opResult := s.opResult } := by
  have hnoise : s.noise.clear = s'.noise.clear := by simp only [Noise.clear, htab]
  simp only [configure_eq, configured, Bool.false_eq_true, if_false, derive_clearStream_eq P p s' s]
  simp only [State.withRest, State.accept, hnoise, State.clearStream, derive_noise]

/-- Settles O24: such a command is CFG_ADVANCED of some vector (`ConfiguresParameters.exec_eq`); what it leaves
is `configure_clearing_eq` with `PRESERVE = 0`, and with `PRESERVE = 1` the deriver's registers, which no state
decides (`deriveReadsNoRegister`). -/
theorem configurationIsIdempotent : Obligations.ConfigurationIsIdempotent := by
  refine ⟨fun i s s' hi htab => ?clearing, fun i s s' hi => ?keeping⟩
  case clearing =>
    obtain ⟨p, hexec⟩ := hi.exec_eq
    have h := configures_configure params false .active (some p) s
    refine ⟨_, _, hexec s, hexec s', ?_, ?_⟩
    · rw [h.port, h.opResult]
      exact configure_clearing_eq params p htab
    · rw [hexec]
      exact congrArg Host.Outcome.next (configure_clearing_eq params p h.noise_tab)
  case keeping =>
    obtain ⟨p, hexec⟩ := hi.exec_eq
    obtain ⟨hmode, hconfig, _, _, hkept, _⟩ := configures_configure params true .active (some p) s
    obtain ⟨hmode', hconfig', _, _, hkept', _⟩ := configures_configure params true .active (some p) s'
    refine ⟨_, _, hexec s, hexec s', ?_, hmode.trans hmode'.symm, hkept rfl, hkept' rfl⟩
    exact hconfig.symm.trans ((deriveReadsNoRegister params p s s').trans hconfig')

end Sys2Proof.Machine

/-! # The PROCESS commands: dispatch and chunking (rules R392, R393, R426 and R427) -/

namespace Sys2Proof.Machine

open Sys2Proof.Config (Params)

/-! ## The mode dispatch -/

section
variable {P : Params} {s : State}

theorem sampleStep_of_active (h : s.mode = .active) (x : Pair) : sampleStep P s x = engineSample P s x :=
  if_pos (by simp [State.isActive, h])

theorem sampleStep_of_not_active (h : s.mode ≠ .active) (x : Pair) : sampleStep P s x = .ok (x, s) :=
  if_neg (by simp [State.isActive, h])

theorem sampleSteps_of_not_active (h : s.mode ≠ .active) (xs : List Pair) :
    sampleSteps P xs s = .ok (xs, s) := by
  induction xs with
  | nil => rfl
  | cons x xs ih =>
    unfold sampleSteps
    rw [sampleStep_of_not_active h, bind_ok, ih, bind_ok]

/-- PROCESS_SAMPLE answers what its sample step gives. -/
theorem exec_processSample {a b : Word} {y : Pair} {t : State} (h : sampleStep params s ⟨a, b⟩ = .ok (y, t)) :
    exec (.processSample a b) s = .next { t with reply := [0, y.l, y.r] } := by
  show execProcessSample a b s = _
  rw [execProcessSample, h, bind_ok]
  rfl

/-- PROCESS_BLOCK answers what its sample steps give. -/
theorem exec_processBlock {xs ys : List Pair} {t : State} (h : sampleSteps params xs s = .ok (ys, t)) :
    exec (.processBlock xs) s = .next { t with reply := 0 :: wordsOfPairs ys } := by
  show execProcessBlock xs s = _
  rw [execProcessBlock, h, bind_ok]
  rfl

end

/-- Settles O25: outside ACTIVE every sample step answers its input and the state. -/
theorem modeDispatch : Obligations.ModeDispatch := by
  refine ⟨fun s h => ⟨fun a b => ?_, fun xs => ?_⟩, fun s h => sampleStep_of_active h⟩
  · exact exec_processSample (sampleStep_of_not_active h _)
  · exact exec_processBlock (sampleSteps_of_not_active h xs)

/-! ## No sample step reads the last command's answer

PROCESS_BLOCK leaves its answer in the state from which the next block begins. `SameButReply ws` relates a
computation to the one that starts from a state with another answer. -/

/-- The state with another answer of the last command. -/
def State.withReply (s : State) (ws : List Word) : State := { s with reply := ws }

/-- Both computations stop for the same reason, or answer the same value, with the answer `ws` in the state of
the second. -/
def SameButReply {α : Type} (ws : List Word) (x y : Except Fault (α × State)) : Prop :=
  y = x >>= fun r => .ok (r.1, r.2.withReply ws)

section
variable {α β : Type} {ws : List Word}

theorem SameButReply.ok (a : α) (s : State) : SameButReply ws (.ok (a, s)) (.ok (a, s.withReply ws)) := rfl

theorem SameButReply.bind {x y : Except Fault (α × State)} {f g : α × State → Except Fault (β × State)}
    (h : SameButReply ws x y) (hf : ∀ a s, SameButReply ws (f (a, s)) (g (a, s.withReply ws))) :
    SameButReply ws (x >>= f) (y >>= g) := by
  subst h
  cases x with
  | error e => rfl
  | ok r => exact hf r.1 r.2

/-- A part that both computations share: a read, a check. -/
theorem SameButReply.share {x : Except Fault α} {f g : α → Except Fault (β × State)}
    (hf : ∀ a, SameButReply ws (f a) (g a)) : SameButReply ws (x >>= f) (x >>= g) := by
  cases x with
  | error e => rfl
  | ok a => exact hf a

variable (P : Params) (s : State)

theorem bothChans_reply (f : Ch → Chan → Word → Except Fault (Word × Chan)) (x : Pair) :
    SameButReply ws (bothChans f s x) (bothChans f (s.withReply ws) x) :=
  .share fun _ => .share fun _ => .ok _ _

theorem erStep_reply (x : Pair) : SameButReply ws (erStep P s x) (erStep P (s.withReply ws) x) :=
  (bothChans_reply s _ x).bind fun _ a => .share fun _ => .share fun _ =>
    (bothChans_reply a _ _).bind fun _ b => (bothChans_reply b _ _).bind fun _ _ => .ok _ _

theorem diffuseStage_reply (p : Pair) :
    SameButReply ws (diffuseStage P s p) (diffuseStage P (s.withReply ws) p) :=
  .share fun _ => .share fun _ => .ok _ _

theorem crossStage_reply (p : Pair) :
    SameButReply ws (crossStage P s p) (crossStage P (s.withReply ws) p) :=
  .share fun _ => .share fun _ =>
    (bothChans_reply s _ p).bind fun _ w => (bothChans_reply w _ _).bind fun _ _ => .ok _ _

theorem lateStep_reply (u : Pair) : SameButReply ws (lateStep P s u) (lateStep P (s.withReply ws) u) :=
  (bothChans_reply (modStep s).2 _ u).bind fun _ p => (diffuseStage_reply P p _).bind fun _ d =>
    (crossStage_reply P d _).bind fun _ q => (bothChans_reply q _ _).bind fun _ b =>
      (bothChans_reply b _ _).bind fun _ h => (bothChans_reply h _ _).bind fun _ k =>
        (bothChans_reply k _ _).bind fun _ z => bothChans_reply z _ _

theorem subStep_reply (u : Pair) (j : Nat) :
    SameButReply ws (subStep P s u j) (subStep P (s.withReply ws) u j) :=
  (bothChans_reply s _ u).bind fun _ w => (lateStep_reply P w _).bind fun _ z => bothChans_reply z _ _

theorem subSteps_reply (u : Pair) (n j : Nat) (last : Option Pair) :
    SameButReply ws (subSteps P u n j last s) (subSteps P u n j last (s.withReply ws)) := by
  induction n generalizing j last s with
  | zero => cases last <;> rfl
  | succ n ih => exact (subStep_reply P s u j).bind fun y r => ih r (j + 1) (some y)

theorem lateOsStep_reply (u : Pair) :
    SameButReply ws (lateOsStep P s u) (lateOsStep P (s.withReply ws) u) := by
  unfold lateOsStep
  show SameButReply ws _ (if s.eng.factor = 1 then _ else _)
  split
  · exact lateStep_reply P s u
  · exact subSteps_reply P s u _ 0 none

theorem engineSample_reply (x : Pair) :
    SameButReply ws (engineSample P s x) (engineSample P (s.withReply ws) x) :=
  (bothChans_reply s _ x).bind fun _ w => (bothChans_reply w _ x).bind fun _ d =>
    (erStep_reply P d _).bind fun _ r => (lateOsStep_reply P r _).bind fun _ _ => .ok _ _

theorem sampleStep_reply (x : Pair) :
    SameButReply ws (sampleStep P s x) (sampleStep P (s.withReply ws) x) := by
  unfold sampleStep
  show SameButReply ws _ (if s.isActive = true then _ else _)
  split
  · exact engineSample_reply P s x
  · rfl

theorem sampleSteps_reply (xs : List Pair) :
    SameButReply ws (sampleSteps P xs s) (sampleSteps P xs (s.withReply ws)) := by
  induction xs generalizing s with
  | nil => rfl
  | cons x xs ih => exact (sampleStep_reply P s x).bind fun _ y => (ih y).bind fun _ _ => .ok _ _

end

/-! ## Blocks one after another -/

section
variable {P : Params} {s t u : State} {xs ys xs' ys' : List Pair}

theorem sampleSteps_append (h : sampleSteps P xs s = .ok (ys, t)) (h' : sampleSteps P xs' t = .ok (ys', u)) :
    sampleSteps P (xs ++ xs') s = .ok (ys ++ ys', u) := by
  induction xs generalizing s ys with
  | nil =>
    cases h
    exact h'
  | cons x xs ih =>
    obtain ⟨y, hy, h⟩ := bind_eq_ok.mp h
    obtain ⟨z, hz, h⟩ := bind_eq_ok.mp h
    cases h
    simp only [List.cons_append, sampleSteps, hy, bind_ok, ih hz]

/-- A block that completes has made its sample steps. -/
theorem sampleSteps_of_exec (h : exec (.processBlock xs) s = .next t) :
    ∃ ys u, sampleSteps params xs s = .ok (ys, u) ∧ t = u.withReply (0 :: wordsOfPairs ys) := by
  obtain ⟨⟨ys, u⟩, hu, ht⟩ := bind_eq_ok.mp (outcomeOf_eq_next.mp h)
  cases ht
  exact ⟨ys, u, hu, rfl⟩

/-- A run of blocks that completes begins with its first block, whose outputs come first. -/
theorem runBlocks_cons_eq_some {xss : List (List Pair)} {out : List Word} :
    runBlocks (xs :: xss) s = some (t, out) ↔ ∃ (u : State) (out' : List Word),
      exec (.processBlock xs) s = .next u ∧ runBlocks xss u = some (t, out') ∧ u.reply.tail ++ out' = out := by
  rw [runBlocks]
  cases exec (.processBlock xs) s with
  | next u => cases hr : runBlocks xss u <;> simp [hr, Prod.ext_iff]
  | fault f => simp
  | refused r => simp

/-- A computation that completes from a state with another answer completes without it, to the same value. -/
theorem sampleSteps_of_withReply {ws : List Word} (h : sampleSteps P xs (s.withReply ws) = .ok (ys, t)) :
    ∃ u, sampleSteps P xs s = .ok (ys, u) ∧ t = u.withReply ws := by
  have hsame : SameButReply ws (sampleSteps P xs s) (.ok (ys, t)) := h ▸ sampleSteps_reply P s xs
  obtain ⟨⟨zs, u⟩, hu, heq⟩ := bind_eq_ok.mp hsame.symm
  cases heq
  exact ⟨u, hu, rfl⟩

/-- Blocks that complete one after another make the sample steps of their concatenation. -/
theorem sampleSteps_of_runBlocks {xss : List (List Pair)} {out : List Word}
    (h : runBlocks xss s = some (t, out)) :
    ∃ ys u, sampleSteps params xss.flatten s = .ok (ys, u) ∧ wordsOfPairs ys = out ∧
      ∀ ws, u.withReply ws = t.withReply ws := by
  induction xss generalizing s out with
  | nil =>
    cases h
    exact ⟨[], t, rfl, rfl, fun _ => rfl⟩
  | cons xs xss ih =>
    obtain ⟨t₁, out', hexec, hrest, rfl⟩ := runBlocks_cons_eq_some.mp h
    obtain ⟨ys₁, u₁, hfirst, rfl⟩ := sampleSteps_of_exec hexec
    obtain ⟨ys₂, u, hu, rfl, hut⟩ := ih hrest
    obtain ⟨u₂, hsecond, rfl⟩ := sampleSteps_of_withReply hu
    exact ⟨ys₁ ++ ys₂, u₂, sampleSteps_append hfirst hsecond, wordsOfPairs_append _ _, hut⟩

end

/-- Settles O26: the blocks and their concatenation make the same sample steps, and no sample step reads the
answer a block leaves; a block of one pair makes the sample step of PROCESS_SAMPLE. -/
theorem chunkingInvariance : Obligations.ChunkingInvariance := by
  refine ⟨fun xss s t out h => ?_, fun a b s => ?_⟩
  · obtain ⟨ys, u, hsteps, rfl, hut⟩ := sampleSteps_of_runBlocks h
    exact (exec_processBlock hsteps).trans (congrArg Host.Outcome.next (hut _))
  · show execProcessSample a b s = execProcessBlock [⟨a, b⟩] s
    unfold execProcessSample execProcessBlock sampleSteps
    cases sampleStep params s ⟨a, b⟩ <;> rfl

end Sys2Proof.Machine

/-! # One sample through both channels

A stage of the graph runs on both channels (rule R14). What it does is said of a channel `c`; `State.withChans`
and `pairOf` put the two channels together again. -/

namespace Sys2Proof.Machine

open Sys2Proof.Config (Params)

/-- The state with both channels replaced. -/
def State.withChans (s : State) (x : Ch → Chan) : State := { s with left := x .left, right := x .right }

/-- The pair of a word for each channel. -/
def pairOf (v : Ch → Word) : Pair := ⟨v .left, v .right⟩

@[simp] theorem State.chan_withChans (s : State) (x : Ch → Chan) (c : Ch) : (s.withChans x).chan c = x c := by
  cases c <;> rfl

@[simp] theorem Pair.get_pairOf (v : Ch → Word) (c : Ch) : (pairOf v).get c = v c := by
  cases c <;> rfl

/-- A stage that completes on each channel hands on both results. -/
theorem bothChans_bind {α : Type} {f : Ch → Chan → Word → Except Fault (Word × Chan)} {x y : Ch → Chan}
    {v w : Ch → Word} (h : ∀ c, f c (x c) (v c) = .ok (w c, y c)) (s : State)
    (k : Pair × State → Except Fault α) :
    (bothChans f (s.withChans x) (pairOf v) >>= k) = k (pairOf w, s.withChans y) := by
  have hf : bothChans f (s.withChans x) (pairOf v) = .ok (pairOf w, s.withChans y) :=
    bothChans_ok (h .left) (h .right)
  rw [hf, bind_ok]

/-- A stage that cannot stop on either channel. -/
theorem bothChans_pure_bind {α : Type} (g : Ch → Chan → Word → Word × Chan) (x : Ch → Chan)
    (v : Ch → Word) (s : State) (k : Pair × State → Except Fault α) :
    (bothChans (fun c ch w => .ok (g c ch w)) (s.withChans x) (pairOf v) >>= k) =
      k (pairOf fun c => (g c (x c) (v c)).1, s.withChans fun c => (g c (x c) (v c)).2) :=
  bothChans_bind (fun _ => rfl) s k

/-- What holds of the value of a computation that succeeds. -/
theorem Succeeds.of_eq {α : Type} {x : Except Fault α} {Q : α → Prop} {a : α} (h : Succeeds x Q)
    (ha : x = .ok a) : Q a := by
  obtain ⟨b, hb, hQ⟩ := h
  cases hb.symm.trans ha
  exact hQ

/-! ## The frame of a graph operation -/

/-- Stream state alone differs: what else a frame speaks of is the same. -/
theorem Unchanged.of_clearStream {T : Touched} {s t : State} (h : t.clearStream = s.clearStream)
    (hline : ∀ c r, (c, r) ∉ T.lines → (t.chan c).line r = (s.chan c).line r)
    (hapm : ∀ c r, (c, r) ∉ T.apms → (t.chan c).apm r = (s.chan c).apm r)
    (hiir1 : ∀ r, r ∉ T.iir1s → t.iir1 r = s.iir1 r)
    (hbq : ∀ c r, (c, r) ∉ T.bqs → (t.chan c).bq r = (s.chan c).bq r)
    (hdcc : ∀ c, c ∉ T.dccs → (t.chan c).dccut = (s.chan c).dccut)
    (hlfo : ∀ r, r ∉ T.lfos → t.lfo r = s.lfo r)
    (hnoise : T.noise = false → t.noise.npos = s.noise.npos) : Unchanged T s t where
  config := (Keeps.of_clearStream h).config
  mode := (Keeps.of_clearStream h).mode
  noise_tab := KeepsTable.of_clearStream h
  port := (congrArg State.port h :)
  reply := (congrArg State.reply h :)
  line := hline
  apm := hapm
  iir1 := hiir1
  bq := hbq
  dcc := hdcc
  lfo := hlfo
  noise := hnoise

/-- Channels that differ in stream state only. -/
theorem State.clearStream_withChans {s : State} {x : Ch → Chan} (h : ∀ c, (x c).clear = (s.chan c).clear) :
    (s.withChans x).clearStream = s.clearStream := by
  have hl : (x .left).clear = s.left.clear := h .left
  have hr : (x .right).clear = s.right.clear := h .right
  simp only [State.withChans, State.clearStream, hl, hr]

theorem mem_onBoth {α : Type} {rs : List α} {c : Ch} {r : α} : (c, r) ∈ onBoth rs ↔ r ∈ rs := by
  cases c <;> simp [onBoth]

end Sys2Proof.Machine

/-! # The early-reflection network (rules R350 to R352) -/

namespace Sys2Proof.Machine

open Sys2Proof.Config (Params)

/-! ## The frame -/

/-- A channel with the parts of another that the early-reflection network writes. -/
def Chan.withEr (x y : Chan) : Chan :=
  { x with erLpf := y.erLpf, erHpf := y.erHpf, erTap := y.erTap, erXdelay := y.erXdelay, erXap := y.erXap }

section
variable (x y : Chan)

theorem Chan.line_withEr (r : LineRole) :
    (x.withEr y).line r = if r ∈ [.dl .erTap, .dl .erXdelay, .erXap] then y.line r else x.line r := by
  rcases r with ⟨_ | _ | _ | _ | _ | _ | _ | _ | _⟩ | _ | _ | _ | _ | _ | _ <;> rfl

theorem Chan.apm_withEr (r : ApmRole) : (x.withEr y).apm r = x.apm r := by cases r <;> rfl

theorem Chan.iir1_withEr (r : Iir1Role) :
    (x.withEr y).iir1 r = if r ∈ [.erLpf, .erHpf] then y.iir1 r else x.iir1 r := by cases r <;> rfl

theorem Chan.bq_withEr (r : BqRole) : (x.withEr y).bq r = x.bq r := by cases r <;> rfl

end

theorem mem_erTouched_iir1s {c : Ch} {r : Iir1Role} :
    Iir1Ref.chan c r ∈ erTouched.iir1s ↔ r ∈ [Iir1Role.erLpf, .erHpf] := by
  cases c <;> simp [erTouched]

/-- The parts of a channel that the early-reflection network leaves make up a frame, whichever lines are written
with it. -/
theorem Unchanged.of_er {s : State} {y : Ch → Chan} {lines : List (Ch × LineRole)}
    (h : (s.withChans y).clearStream = s.clearStream)
    (hline : ∀ c r, (c, r) ∉ lines → (y c).line r = (s.chan c).line r)
    (hapm : ∀ c r, (y c).apm r = (s.chan c).apm r)
    (hiir1 : ∀ c r, r ∉ [Iir1Role.erLpf, .erHpf] → (y c).iir1 r = (s.chan c).iir1 r)
    (hbq : ∀ c r, (y c).bq r = (s.chan c).bq r) (hdcc : ∀ c, (y c).dccut = (s.chan c).dccut) :
    Unchanged { erTouched with lines := lines } s (s.withChans y) := by
  refine .of_clearStream h (fun c r hr => ?_) (fun c r _ => ?_) (fun r hr => ?_) (fun c r _ => ?_)
    (fun c _ => ?_) (fun r _ => ?_) (fun _ => rfl)
  case refine_1 => rw [State.chan_withChans, hline c r hr]
  case refine_2 => rw [State.chan_withChans, hapm]
  case refine_3 =>
    cases r with
    | chan c r =>
      have hr := hiir1 c r (mt mem_erTouched_iir1s.mpr hr)
      rwa [← State.chan_withChans s y c] at hr
    | lfo1 => rfl
    | lfo2 => rfl
  case refine_4 => rw [State.chan_withChans, hbq]
  case refine_5 => rw [State.chan_withChans, hdcc]
  case refine_6 => cases r <;> rfl

/-- Channels that differ in these parts only are within the frame of ER_STEP. -/
theorem Unchanged.withEr {s : State} {y : Ch → Chan} (hy : ∀ c, y c = (s.chan c).withEr (y c))
    (h : (s.withChans y).clearStream = s.clearStream) : Unchanged erTouched s (s.withChans y) := by
  refine .of_er h (fun c r hr => ?_) (fun c r => ?_) (fun c r hr => ?_) (fun c r => ?_) (fun c => ?_)
  · rw [hy, Chan.line_withEr, if_neg (mt mem_onBoth.mpr hr)]
  · rw [hy, Chan.apm_withEr]
  · rw [hy, Chan.iir1_withEr, if_neg hr]
  · rw [hy, Chan.bq_withEr]
  · rw [hy]
    rfl

/-! ## The stages of a channel -/

section
variable {P : Params} {x : Chan}

/-- A tap sum that begins with `t`. -/
theorem tapSum_eq_foldl {cap : Nat} {d : Line} (hc : d.size ≤ cap) {ks : List Tap}
    (hk : ∀ k ∈ ks, k.off < d.size) (t : Word) :
    tapSum cap d ks t = .ok (ks.foldl
      (fun acc k => add32 acc (mul32 k.gain (Memory.read d.buf (lineIndex d k.off)))) t) := by
  induction ks generalizing t with
  | nil => rfl
  | cons k ks ih =>
    unfold tapSum
    rw [lineRead_ok hc (hk k List.mem_cons_self), bind_ok]
    exact ih (fun k' hk' => hk k' (List.mem_cons_of_mem _ hk')) _

theorem erTaps_eq_tapTotal (h : x.Sound P) : erTaps P x = .ok x.tapTotal :=
  tapSum_eq_foldl (h.line_ok (.dl .erTap)).size_le (fun _ hk => h.tap_off_lt hk) 0

theorem erStore_ok (h : x.Sound P) (a : Word) :
    ∃ d, erStore P x a = .ok (a, x.setLine (.dl .erTap) d) ∧ x.erTap.Writes d a := by
  obtain ⟨d, hd, hw, _⟩ := lineWrite_ok (h.line_ok (.dl .erTap)) a
  exact ⟨d, bind_eq_ok.mpr ⟨d, hd, rfl⟩, hw⟩

theorem erCross_ok (h : x.Sound P) (t : Word) :
    ∃ xd d r k, erCross P x t = .ok (r, (x.setLine (.dl .erXdelay) d).setAp1 .erXap k) ∧
      x.erXdelay.Delays d t xd ∧ x.erXap.Steps k xd r := by
  obtain ⟨xd, d, hd, hdelay, _⟩ := lineProcess_ok (h.line_ok (.dl .erXdelay)) t
  obtain ⟨r, k, hk, hstep, _⟩ := ap1Process_ok (h.line_ok .erXap) (h.line_ne_zero .erXap rfl) xd
  exact ⟨xd, d, r, k, bind_eq_ok.mpr ⟨_, hd, bind_eq_ok.mpr ⟨_, hk, rfl⟩⟩, hdelay, hstep⟩

end

/-! ## The network -/

/-- ER_STEP completes, step by step as rule R350 says, and writes its own parts only. -/
theorem erStep_steps {P : Params} {s0 s : State} (h : Streams P s0 s) (u : Pair) :
    ∃ (e a : Pair) (y : Ch → Chan), erStep P s u = .ok (⟨e, a⟩, s.withChans y) ∧
      (∀ c, y c = (s.chan c).withEr (y c)) ∧ ErSteps s (s.withChans y) u e a := by
  let shaped c := erShape (s.chan c) (u.get c)
  have hshape c : (shaped c).2.Sound P := erShape_sound (h.chan c) _
  choose tap htap hwrites using fun c => erStore_ok (hshape c) (shaped c).1
  let stored c := (shaped c).2.setLine (.dl .erTap) (tap c)
  have hstore c : (stored c).Sound P := (erStore_succeeds (hshape c) (shaped c).1).of_eq (htap c)
  choose xd xdelay r xap hcross hdelays hsteps using fun c => erCross_ok (hstore c) (s.chan c.other).tapTotal
  let full c := add32 (s.chan c).tapTotal (r c)
  let e c := add32 (mul32 s.eng.ew1 (full c)) (mul32 s.eng.ew2 (full c.other))
  refine ⟨pairOf e, pairOf fun c => (shaped c).1,
    fun c => ((stored c).setLine (.dl .erXdelay) (xdelay c)).setAp1 .erXap (xap c), ?_, ?_, ?_⟩
  · refine (bothChans_pure_bind (fun _ => erShape) s.chan u.get s _).trans ?_
    refine bind_eq_ok.mpr ⟨_, erTaps_eq_tapTotal (hshape .left), bind_eq_ok.mpr
      ⟨_, erTaps_eq_tapTotal (hshape .right), ?_⟩⟩
    refine (bothChans_bind htap s _).trans ?_
    exact bothChans_bind hcross s _
  · exact fun _ => rfl
  · refine ⟨fun c => (iir1Process (s.chan c).erLpf (u.get c)).1, xd, r, fun c => ?_⟩
    rw [State.chan_withChans, Pair.get_pairOf, Pair.get_pairOf]
    exact ⟨iir1Process_steps _ _, iir1Process_steps _ _, hwrites c, hdelays c, hsteps c, rfl⟩

/-- Settles O49: the stages of rule R350 in order, each on a channel that is still in order. -/
theorem erStepResult : Obligations.ErStepResult := by
  intro xL xR s hinv hactive
  obtain ⟨e, a, y, hstep, hy, hsteps⟩ := erStep_steps (.refl hinv hactive) ⟨xL, xR⟩
  have hexec : exec (.erStep xL xR) s = .next ((s.withChans y).yields [e.l, e.r, a.l, a.r]) := by
    show execErStep xL xR s = _
    rw [execErStep, needActive_of_active hactive, bind_ok, hstep, bind_ok]
    rfl
  exact ⟨_, e, a, hexec, rfl, hsteps, (Unchanged.withEr hy (erStep_clear params s _ _ hstep)).yields _⟩

end Sys2Proof.Machine

/-! # The late network (rules R370 to R380) -/

namespace Sys2Proof.Machine

open Sys2Proof.Config (Params)

/-! ## Stages that follow one another on each channel -/

/-- The computation runs both channels through the same stages, which stay apart. -/
def PerChannel (K : State → Pair → Except Fault (Pair × State))
    (k : Ch → Chan → Word → Except Fault (Word × Chan)) : Prop :=
  ∀ (s : State) (x y : Ch → Chan) (v w : Ch → Word), (∀ c, k c (x c) (v c) = .ok (w c, y c)) →
    K (s.withChans x) (pairOf v) = .ok (pairOf w, s.withChans y)

theorem perChannel_bothChans (f : Ch → Chan → Word → Except Fault (Word × Chan)) :
    PerChannel (bothChans f) f :=
  fun _ _ _ _ _ h => bothChans_ok (h .left) (h .right)

/-- One more stage before the others. -/
theorem PerChannel.after {K : State → Pair → Except Fault (Pair × State)}
    {k : Ch → Chan → Word → Except Fault (Word × Chan)} (hK : PerChannel K k)
    (f : Ch → Chan → Word → Except Fault (Word × Chan)) :
    PerChannel (fun s u => bothChans f s u >>= fun r => K r.2 r.1)
      (fun c x v => f c x v >>= fun r => k c r.2 r.1) := by
  intro s x y v w h
  choose r hf hk using fun c => bind_eq_ok.mp (h c)
  exact (bothChans_bind hf s _).trans (hK _ _ _ _ _ hk)

/-! ## The stages after the cross-feed, on one channel -/

section
variable {P : Params} {x : Chan}

/-- A channel with the parts of the dampening stage replaced. -/
def Chan.withDamp (x : Chan) (f : Iir1) (k1 k2 : Apm) (d : Line) : Chan :=
  { x with dampLpf := f, dampAp1 := k1, dampAp2 := k2, dampDelay := d }

theorem dampStage_ok (h : x.Sound P) (m b : Word) :
    ∃ (k1 k2 : Apm) (d : Line) (a1 a2 sd : Word),
      dampStage P m x b = .ok (sd, x.withDamp (iir1Process x.dampLpf b).2 k1 k2 d) ∧
      x.dampAp1.Steps k1 (iir1Process x.dampLpf b).1 m a1 ∧ x.dampAp2.Steps k2 a1 m a2 ∧
      x.dampDelay.Delays d a2 sd := by
  obtain ⟨a1, k1, hk1, hs1, _⟩ := apmProcess_ok (h.apm_ok .dampAp1) (h.apm_ne_zero .dampAp1)
    (iir1Process x.dampLpf b).1 m
  obtain ⟨a2, k2, hk2, hs2, _⟩ := apmProcess_ok (h.apm_ok .dampAp2) (h.apm_ne_zero .dampAp2) a1 m
  obtain ⟨sd, d, hd, hdelay, _⟩ := lineProcess_ok (h.line_ok (.dl .dampDelay)) a2
  exact ⟨k1, k2, d, a1, a2, sd,
    bind_eq_ok.mpr ⟨_, hk1, bind_eq_ok.mpr ⟨_, hk2, bind_eq_ok.mpr ⟨_, hd, rfl⟩⟩⟩, hs1, hs2, hdelay⟩

/-- A channel with the parts of the cross-fade bass stage replaced. -/
def Chan.withCbass (x : Chan) (d1 : Line) (a2 : Ap2) (d2 : Line) (a3 : Ap3m) : Chan :=
  { x with cbassD1 := d1, cbassAp2 := a2, cbassD2 := d2, cbassAp3 := a3 }

theorem cbassStage_ok (h : x.Sound P) (m v : Word) :
    ∃ (d1 : Line) (k2 : Ap2) (d2 : Line) (k3 : Ap3m) (y1 y2 y3 k : Word),
      cbassStage P m x v = .ok (k, x.withCbass d1 k2 d2 k3) ∧
      x.cbassD1.Delays d1 v y1 ∧ x.cbassAp2.Steps k2 y1 y2 ∧ x.cbassD2.Delays d2 y2 y3 ∧
      x.cbassAp3.Steps k3 y3 m k := by
  obtain ⟨y1, d1, hd1, hs1, _⟩ := lineProcess_ok (h.line_ok (.dl .cbassD1)) v
  obtain ⟨y2, k2, hk2, hs2, _⟩ := ap2Process_ok (h.line_ok .cbassAp2S0) (h.line_ok .cbassAp2S1)
    (h.line_ne_zero .cbassAp2S0 rfl) (h.line_ne_zero .cbassAp2S1 rfl) y1
  obtain ⟨y3, d2, hd2, hs3, _⟩ := lineProcess_ok (h.line_ok (.dl .cbassD2)) y2
  obtain ⟨k, k3, hk3, hs4, _⟩ := ap3mProcess_ok (h.line_ok .cbassAp3S0) (h.apm_ok .cbassAp3S1)
    (h.line_ok .cbassAp3S2) (h.line_ne_zero .cbassAp3S0 rfl) (h.apm_ne_zero .cbassAp3S1)
    (h.line_ne_zero .cbassAp3S2 rfl) y3 m
  exact ⟨d1, k2, d2, k3, y1, y2, y3, k, bind_eq_ok.mpr ⟨_, hd1, bind_eq_ok.mpr ⟨_, hk2,
    bind_eq_ok.mpr ⟨_, hd2, bind_eq_ok.mpr ⟨_, hk3, rfl⟩⟩⟩⟩, hs1, hs2, hs3, hs4⟩

/-- A channel with its comb replaced. -/
def Chan.withComb (x : Chan) (k : Comb) : Chan := { x with comb := k }

theorem combStage_ok (h : x.Sound P) (k : Word) :
    ∃ (y : Comb) (z : Word), combStage P x k = .ok (z, x.withComb y) ∧ x.comb.Steps y k z := by
  obtain ⟨z, y, hy, hs, _⟩ := combProcess_ok (h.line_ok .comb) (h.line_ne_zero .comb rfl) k
  exact ⟨y, z, bind_eq_ok.mpr ⟨_, hy, rfl⟩, hs⟩

/-- A channel with the parts of its output stage replaced. -/
def Chan.withOut (x : Chan) (f : Bq) (d : Line) : Chan := { x with outLpf := f, outDelay := d }

theorem outStage_ok (h : x.Sound P) (z : Word) :
    ∃ (d : Line) (v : Word),
      outStage P x z = .ok (v, x.withOut (bqProcess x.outLpf z).2 d) ∧
      x.outDelay.Delays d (bqProcess x.outLpf z).1 v := by
  obtain ⟨v, d, hd, hs, _⟩ := lineProcess_ok (h.line_ok (.dl .outDelay)) (bqProcess x.outLpf z).1
  exact ⟨d, v, bind_eq_ok.mpr ⟨_, hd, rfl⟩, hs⟩

end

/-- What follows the cross-feed on a channel: bass, dampening, cross-fade bass, comb, output (rules R375 to
R379). -/
def lateTail (P : Params) (bassb : Word) (m : Modulation) (c : Ch) (x : Chan) (q : Word) :
    Except Fault (Word × Chan) := do
  let d ← dampStage P (sgn c m.m1) (bassStage bassb x q).2 (bassStage bassb x q).1
  let k ← cbassStage P (sgn c m.m2) d.2 d.1
  let z ← combStage P k.2 k.1
  outStage P z.2 z.1

/-- `lateTail` as a relation, the equations of rules R375 to R379. -/
def Chan.TailSteps (bassb : Word) (m : Modulation) (c : Ch) (x x' : Chan) (q y : Word) : Prop :=
  ∃ ba bl b h a1 a2 sd d1 c2 d2 k z ol : Word,
    x.bassAp.Steps x'.bassAp q ba ∧
    x.bassLpf.Steps x'.bassLpf ba bl ∧
    b = add32 q (mul32 bassb bl) ∧
    x.dampLpf.Steps x'.dampLpf b h ∧
    x.dampAp1.Steps x'.dampAp1 h (sgn c m.m1) a1 ∧
    x.dampAp2.Steps x'.dampAp2 a1 (sgn c m.m1) a2 ∧
    x.dampDelay.Delays x'.dampDelay a2 sd ∧
    x.cbassD1.Delays x'.cbassD1 sd d1 ∧
    x.cbassAp2.Steps x'.cbassAp2 d1 c2 ∧
    x.cbassD2.Delays x'.cbassD2 c2 d2 ∧
    x.cbassAp3.Steps x'.cbassAp3 d2 (sgn c m.m2) k ∧
    x.comb.Steps x'.comb k z ∧
    x.outLpf.Steps x'.outLpf z ol ∧
    x.outDelay.Delays x'.outDelay ol y

/-- A channel with the parts of another that the stages after the cross-feed write. -/
def Chan.withTail (x y : Chan) : Chan :=
  { x with
    bassAp := y.bassAp
    bassLpf := y.bassLpf
    dampLpf := y.dampLpf
    dampAp1 := y.dampAp1
    dampAp2 := y.dampAp2
    dampDelay := y.dampDelay
    cbassD1 := y.cbassD1
    cbassAp2 := y.cbassAp2
    cbassD2 := y.cbassD2
    cbassAp3 := y.cbassAp3
    comb := y.comb
    outLpf := y.outLpf
    outDelay := y.outDelay }

theorem lateTail_steps {P : Params} {x : Chan} (h : x.Sound P) (bassb : Word) (m : Modulation) (c : Ch)
    (q : Word) :
    ∃ y x', lateTail P bassb m c x q = .ok (y, x.withTail x') ∧ x.TailSteps bassb m c (x.withTail x') q y := by
  let x1 := (bassStage bassb x q).2
  let b := (bassStage bassb x q).1
  have h1 : x1.Sound P := bassStage_sound h bassb q
  obtain ⟨k1, k2, dl, a1, a2, sd, hdamp, hk1, hk2, hdl⟩ := dampStage_ok h1 (sgn c m.m1) b
  let x2 := x1.withDamp (iir1Process x1.dampLpf b).2 k1 k2 dl
  have h2 : x2.Sound P := (dampStage_succeeds h1 _ _).of_eq hdamp
  obtain ⟨dl1, k3, dl2, k4, d1, c2, d2, k, hcbass, hdl1, hk3, hdl2, hk4⟩ := cbassStage_ok h2 (sgn c m.m2) sd
  let x3 := x2.withCbass dl1 k3 dl2 k4
  have h3 : x3.Sound P := (cbassStage_succeeds h2 _ _).of_eq hcbass
  obtain ⟨cb, z, hcomb, hcb⟩ := combStage_ok h3 k
  let x4 := x3.withComb cb
  have h4 : x4.Sound P := (combStage_succeeds h3 _).of_eq hcomb
  obtain ⟨od, y, hout, hod⟩ := outStage_ok h4 z
  let x5 := x4.withOut (bqProcess x4.outLpf z).2 od
  refine ⟨y, x5, ?_, ?_⟩
  · exact bind_eq_ok.mpr ⟨_, hdamp, bind_eq_ok.mpr ⟨_, hcbass, bind_eq_ok.mpr ⟨_, hcomb, hout⟩⟩⟩
  · exact ⟨_, _, _, _, a1, a2, sd, d1, c2, d2, k, z, _, bqProcess_steps _ _, bqProcess_steps _ _, rfl,
      iir1Process_steps _ _, hk1, hk2, hdl, hdl1, hk3, hdl2, hk4, hcb, bqProcess_steps _ _, hod⟩

/-! ## The noise source -/

/-- The noise source after `k` draws. -/
def Noise.advance (n : Noise) (k : Nat) : Noise := { n with npos := (n.npos + k) % noiseLen }

section
variable {n : Noise}

theorem Noise.Ok.advance (h : n.Ok) (k : Nat) : (n.advance k).Ok := ⟨h.tab, Nat.mod_lt _ (Nat.two_pow_pos 14)⟩

theorem Noise.Ok.advance_zero (h : n.Ok) : n.advance 0 = n := by
  simp [Noise.advance, Nat.mod_eq_of_lt h.npos]

theorem Noise.advance_advance (n : Noise) (k j : Nat) : (n.advance k).advance j = n.advance (k + j) := by
  simp [Noise.advance, Nat.add_assoc]

theorem Noise.entry_advance (n : Noise) (k j : Nat) : (n.advance k).entry j = n.entry (k + j) := by
  simp [Noise.entry, Noise.advance, Nat.add_assoc]

end

/-! ## The diffusion sections -/

/-- A channel with its diffusion sections replaced. -/
def Chan.withDiff (x : Chan) (V : Vector Apm 10) : Chan := { x with diff := V }

/-- A sequence with one more term in front. -/
def consSeq {α : Type} (a : α) (f : Nat → α) : Nat → α
  | 0 => a
  | k + 1 => f k

section
variable {P : Params}

/-- The sections `is`, each once: section `is[j]` is modulated by the `j`-th entry from the cursor on. -/
theorem diffuse_steps {is : List (Fin 10)} (hnd : is.Nodup) {x : Chan} (h : x.Sound P) {n : Noise} (hn : n.Ok)
    (w : Word) :
    ∃ (W : Nat → Word) (V : Vector Apm 10),
      diffuse P is x.diff n w = .ok (W is.length, V, n.advance is.length) ∧ (x.withDiff V).Sound P ∧ W 0 = w ∧
      (∀ (j : Nat) (hj : j < is.length),
        (x.apm (.diff is[j])).Steps ((x.withDiff V).apm (.diff is[j])) (W j) (n.entry j) (W (j + 1))) ∧
      ∀ i ∉ is, (x.withDiff V).apm (.diff i) = x.apm (.diff i) := by
  induction is generalizing x n w with
  | nil =>
    refine ⟨fun _ => w, x.diff, ?_, h, rfl, nofun, fun _ _ => rfl⟩
    rw [List.length_nil, hn.advance_zero]
    rfl
  | cons i is ih =>
    obtain ⟨hi, hnd⟩ := List.nodup_cons.mp hnd
    obtain ⟨y, a, ha, hstep, _⟩ := apmProcess_ok (h.apm_ok (.diff i)) (h.apm_ne_zero (.diff i)) w (n.entry 0)
    have hx := h.setApm (.diff i) ((apmProcess_succeeds (h.apm_ok _) (h.apm_ne_zero _) w (n.entry 0)).of_eq ha)
    obtain ⟨W, V, hV, hsound, hW, hsteps, hkeep⟩ := ih hnd hx (hn.advance 1) y
    have hother (k : Fin 10) (hk : k ≠ i) : (x.setApm (.diff i) a).apm (.diff k) = x.apm (.diff k) := by
      rw [Chan.apm_setApm, if_neg fun he => hk (ApmRole.diff.inj he)]
    refine ⟨consSeq w W, V, ?_, hsound, rfl, ?_, ?_⟩
    · rw [Noise.advance_advance, Nat.add_comm] at hV
      exact bind_eq_ok.mpr ⟨_, noiseNext_ok hn.tab hn.npos, bind_eq_ok.mpr ⟨_, ha, hV⟩⟩
    · intro j hj
      cases j with
      | zero =>
        have hlast := hkeep i hi
        rw [Chan.apm_setApm_same] at hlast
        show (x.apm (.diff i)).Steps (((x.setApm (.diff i) a).withDiff V).apm (.diff i)) w (n.entry 0) (W 0)
        rw [hlast, hW]
        exact hstep
      | succ j =>
        have hne : is[j]'(Nat.lt_of_succ_lt_succ hj) ≠ i := fun he => hi (he ▸ List.getElem_mem _)
        have hj := hsteps j (Nat.lt_of_succ_lt_succ hj)
        rw [hother _ hne, Noise.entry_advance, Nat.add_comm] at hj
        exact hj
    · intro k hk
      obtain ⟨hki, hk⟩ := not_or.mp (mt List.mem_cons.mpr hk)
      exact (hkeep k hk).trans (hother k hki)

theorem sections_nodup : sections.Nodup := by decide

theorem sections_getElem (i : Fin 10) : sections[i.val]'i.isLt = i := by
  revert i
  decide

/-- DIFFUSE: ten sections a channel, the left channel's noise entries first (rule R373). -/
theorem diffuseStage_steps {s : State} {x : Ch → Chan} (hx : ∀ c, (x c).Sound P) (hn : s.noise.Ok)
    (v : Ch → Word) :
    ∃ (W : Ch → Nat → Word) (V : Ch → Vector Apm 10),
      diffuseStage P (s.withChans x) (pairOf v) =
        .ok (pairOf fun c => W c 10,
          ({ s with noise := s.noise.advance 20 } : State).withChans fun c => (x c).withDiff (V c)) ∧
      ∀ c, ((x c).withDiff (V c)).Sound P ∧ W c 0 = v c ∧
        ∀ i : Fin 10, ((x c).apm (.diff i)).Steps (((x c).withDiff (V c)).apm (.diff i)) (W c i.val)
          (s.noise.entry (drawnBefore c + i.val)) (W c (i.val + 1)) := by
  choose W V hV hsound hW hsteps _ using fun c =>
    diffuse_steps sections_nodup (hx c) (hn.advance (drawnBefore c)) (v c)
  refine ⟨W, V, ?_, fun c => ⟨hsound c, hW c, fun i => ?_⟩⟩
  · have hl := hV .left
    have hr := hV .right
    rw [Noise.advance_advance] at hl hr
    rw [drawnBefore, hn.advance_zero] at hl
    exact bind_eq_ok.mpr ⟨_, hl, bind_eq_ok.mpr ⟨_, hr, rfl⟩⟩
  · have hi := hsteps c i.val i.isLt
    rw [sections_getElem, Noise.entry_advance] at hi
    exact hi

/-! ## The cross-feed -/

theorem crossStore_ok {x : Chan} (h : x.Sound P) (p : Word) :
    ∃ d, crossStore P x p = .ok (p, x.setLine (.dl .crossDelay) d) ∧ x.crossDelay.Writes d p := by
  obtain ⟨d, hd, hw, _⟩ := lineWrite_ok (h.line_ok (.dl .crossDelay)) p
  exact ⟨d, bind_eq_ok.mpr ⟨d, hd, rfl⟩, hw⟩

/-- The other channel's oldest word, filtered (rule R374). -/
def crossWord (x : Ch → Chan) (c : Ch) : Word × Iir1 := iir1Process (x c).crossLpf (x c.other).crossDelay.oldest

/-- CROSS: both reads come before both writes (rule R374). -/
theorem crossStage_steps {x : Ch → Chan} (hx : ∀ c, (x c).Sound P) (s : State) (v : Ch → Word) :
    ∃ (d : Ch → Line),
      crossStage P (s.withChans x) (pairOf v) =
        .ok (pairOf fun c => add32 (v c) (crossWord x c).1,
          s.withChans fun c => ((x c).setLine (.dl .crossDelay) (d c)).setIir1 .crossLpf (crossWord x c).2) ∧
      ∀ c, (x c).crossDelay.Writes (d c) (v c) ∧
        (((x c).setLine (.dl .crossDelay) (d c)).setIir1 .crossLpf (crossWord x c).2).Sound P := by
  choose d hd hw using fun c => crossStore_ok (hx c) (v c)
  have hread c := lineRead_zero ((hx c).line_ok (.dl .crossDelay)) ((hx c).line_ne_zero (.dl .crossDelay) rfl)
  have hsound c : ((x c).setLine (.dl .crossDelay) (d c)).Sound P := (crossStore_succeeds (hx c) (v c)).of_eq (hd c)
  refine ⟨d, ?_, fun c => ⟨hw c, (hsound c).setIir1 _ _⟩⟩
  refine bind_eq_ok.mpr ⟨_, hread .right, bind_eq_ok.mpr ⟨_, hread .left, ?_⟩⟩
  refine (bothChans_bind hd s _).trans ?_
  exact bothChans_pure_bind (fun _ => crossFilter) _ (fun c => (x c.other).crossDelay.oldest) s _

end

end Sys2Proof.Machine

/-! # LATE_STEP (rules R370 and R380) -/

namespace Sys2Proof.Machine

open Sys2Proof.Config (Params)

/-! ## The frame -/

/-- A channel with the parts of another that a sub-step of the late network writes. -/
def Chan.withLate (x y : Chan) : Chan :=
  { x.withTail y with
    dccut := y.dccut
    diff := y.diff
    crossDelay := y.crossDelay
    crossLpf := y.crossLpf }

/-- A state with the parts of another that a sub-step of the late network writes. -/
def State.withLate (s t : State) : State :=
  { s with
    left := s.left.withLate t.left
    right := s.right.withLate t.right
    noise := t.noise
    lfo1 := t.lfo1
    lfo2 := t.lfo2
    lfo1Lpf := t.lfo1Lpf
    lfo2Lpf := t.lfo2Lpf }

section
variable (x y : Chan)

theorem Chan.line_withLate (r : LineRole) :
    (x.withLate y).line r = if r ∈ lateLines then y.line r else x.line r := by
  rcases r with ⟨_ | _ | _ | _ | _ | _ | _ | _ | _⟩ | _ | _ | _ | _ | _ | _ <;> rfl

theorem Chan.iir1_withLate (r : Iir1Role) :
    (x.withLate y).iir1 r = if r ∈ [.crossLpf, .dampLpf] then y.iir1 r else x.iir1 r := by cases r <;> rfl

theorem Chan.bq_withLate (r : BqRole) :
    (x.withLate y).bq r = if r ∈ [.bassAp, .bassLpf, .outLpf] then y.bq r else x.bq r := by cases r <;> rfl

end

theorem State.chan_withLate (s t : State) (c : Ch) : (s.withLate t).chan c = (s.chan c).withLate (t.chan c) := by
  cases c <;> rfl

/-- A sub-step writes every modulated all-pass. -/
theorem mem_lateTouched_apms (c : Ch) (r : ApmRole) : (c, r) ∈ lateTouched.apms := by
  refine mem_onBoth.mpr ?_
  cases r with
  | diff i => revert i; decide
  | _ => decide

/-- The parts of a channel that a sub-step leaves make up its frame, whichever biquads it writes. -/
theorem Unchanged.of_late {s t : State} {bqs : List (Ch × BqRole)} (h : t.clearStream = s.clearStream)
    (hline : ∀ c r, r ∉ lateLines → (t.chan c).line r = (s.chan c).line r)
    (hiir1 : ∀ c r, r ∉ [Iir1Role.crossLpf, .dampLpf] → (t.chan c).iir1 r = (s.chan c).iir1 r)
    (hbq : ∀ c r, (c, r) ∉ bqs → (t.chan c).bq r = (s.chan c).bq r) :
    Unchanged { lateTouched with bqs := bqs } s t := by
  refine .of_clearStream h (fun c r hr => ?_) (fun c r hr => ?_) (fun r hr => ?_) hbq (fun c hc => ?_)
    (fun r hr => ?_) nofun
  case refine_1 =>
    exact hline c r (List.count_eq_zero.mp ((count_lateLines_headLines c r).2 hr).1)
  case refine_2 =>
    exact absurd (mem_lateTouched_apms c r) hr
  case refine_3 =>
    cases r with
    | chan c r =>
      refine hiir1 c r fun hmem => hr ?_
      cases c <;> simp_all [lateTouched]
    | lfo1 => simp [lateTouched] at hr
    | lfo2 => simp [lateTouched] at hr
  case refine_4 => cases c <;> simp [lateTouched] at hc
  case refine_5 => cases r <;> simp [lateTouched] at hr

/-- A state that differs in the late network's parts only is within the frame of LATE_STEP. -/
theorem Unchanged.withLate {s t : State} (h : t.clearStream = s.clearStream) (ht : t = s.withLate t) :
    Unchanged lateTouched s t := by
  have hchan (c : Ch) : t.chan c = (s.chan c).withLate (t.chan c) := by
    rw [← State.chan_withLate, ← ht]
  refine .of_late h (fun c r hr => ?_) (fun c r hr => ?_) (fun c r hr => ?_)
  · rw [hchan, Chan.line_withLate, if_neg hr]
  · rw [hchan, Chan.iir1_withLate, if_neg hr]
  · rw [hchan, Chan.bq_withLate, if_neg (mt mem_onBoth.mpr hr)]

/-! ## The sub-step -/

/-- LATE_STEP after the cross-feed. -/
def lateTailStage (P : Params) (bassb : Word) (m : Modulation) (s : State) (q : Pair) :
    Except Fault (Pair × State) := do
  let b ← bothChans (fun _ ch v => .ok (bassStage bassb ch v)) s q
  let h ← bothChans (fun c ch v => dampStage P (sgn c m.m1) ch v) b.2 b.1
  let k ← bothChans (fun c ch v => cbassStage P (sgn c m.m2) ch v) h.2 h.1
  let z ← bothChans (fun _ ch v => combStage P ch v) k.2 k.1
  bothChans (fun _ ch v => outStage P ch v) z.2 z.1

theorem perChannel_lateTail (P : Params) (bassb : Word) (m : Modulation) :
    PerChannel (lateTailStage P bassb m) (lateTail P bassb m) :=
  ((((perChannel_bothChans fun _ x v => outStage P x v).after
    fun _ x v => combStage P x v).after
    fun c x v => cbassStage P (sgn c m.m2) x v).after
    fun c x v => dampStage P (sgn c m.m1) x v).after
    fun _ x v => .ok (bassStage bassb x v)

/-- The stages after the cross-feed read no part that the stages before it write. -/
theorem Chan.TailSteps.of_head {bassb : Word} {m : Modulation} {c : Ch} {x z : Chan} {u q v : Word}
    {V : Vector Apm 10} {d : Line} {f : Iir1}
    (h : Chan.TailSteps bassb m c ((((dcStage x u).2.withDiff V).setLine (.dl .crossDelay) d).setIir1 .crossLpf f)
      z q v) : x.TailSteps bassb m c z q v := h

/-- LATE_STEP completes, step by step as rules R371 to R380 say, and writes its own parts only. -/
theorem lateStep_steps {P : Params} {s0 s : State} (h : Streams P s0 s) (u : Pair) :
    ∃ (y : Pair) (t : State), lateStep P s u = .ok (y, t) ∧ t = s.withLate t ∧ LateSteps s t u y := by
  let m := (modStep s).1
  let drawn : State := { (modStep s).2 with noise := s.noise.advance 20 }
  let cut c := dcStage (s.chan c) (u.get c)
  have hcut c : (cut c).2.Sound P := dcStage_sound (h.chan c) _
  obtain ⟨W, V, hdiff, hW⟩ := diffuseStage_steps (s := (modStep s).2) hcut h.noise fun c => (cut c).1
  let diffused c := (cut c).2.withDiff (V c)
  have hdiffused c : (diffused c).Sound P := (hW c).1
  obtain ⟨d, hcross, hd⟩ := crossStage_steps hdiffused drawn fun c => W c 10
  let crossed c := ((diffused c).setLine (.dl .crossDelay) (d c)).setIir1 .crossLpf (crossWord diffused c).2
  let q c := add32 (W c 10) (crossWord diffused c).1
  choose y x' htail hsteps using fun c => lateTail_steps (x := crossed c) (hd c).2 s.eng.bassb m c (q c)
  refine ⟨pairOf y, drawn.withChans fun c => (crossed c).withTail (x' c), ?_, rfl, ?_⟩
  · refine (bothChans_pure_bind (fun _ => dcStage) s.chan u.get (modStep s).2 _).trans ?_
    refine bind_eq_ok.mpr ⟨_, hdiff, bind_eq_ok.mpr ⟨_, hcross, ?_⟩⟩
    exact perChannel_lateTail P s.eng.bassb m _ _ _ _ _ htail
  · choose ba bl b k₁ a1 a2 sd d1 c2 d2 k z ol hba hbl hb hk₁ ha1 ha2 hsd hd1 hc2 hd2 hk hz hol hout using
      fun c => (hsteps c).of_head
    refine ⟨_, m.m1, _, m.m2, fun c => W c 10, fun c => (crossWord diffused c).1, q, ba, bl, b, k₁, a1, a2, sd,
      d1, c2, d2, k, z, ol, W, lfoStep_steps _, iir1Process_steps _ _, lfoStep_steps _, iir1Process_steps _ _,
      rfl, fun c => ?_⟩
    obtain ⟨_, hW0, hsections⟩ := hW c
    rw [State.chan_withChans, Pair.get_pairOf, hW0]
    exact ⟨dccProcess_steps _ _, hsections, rfl, (hd c).1, iir1Process_steps _ _, rfl, hba c, hbl c, hb c, hk₁ c,
      ha1 c, ha2 c, hsd c, hd1 c, hc2 c, hd2 c, hk c, hz c, hol c, hout c⟩

/-- Settles O50: the head of the network stage by stage, then its tail on each channel. -/
theorem lateStepResult : Obligations.LateStepResult := by
  intro uL uR s hinv hactive
  obtain ⟨y, t, hstep, ht, hsteps⟩ := lateStep_steps (.refl hinv hactive) ⟨uL, uR⟩
  have hexec : exec (.lateStep uL uR) s = .next (t.yields [y.l, y.r]) := by
    show execLateStep uL uR s = _
    rw [execLateStep, needActive_of_active hactive, bind_ok, hstep, bind_ok]
    rfl
  exact ⟨_, y, hexec, rfl, hsteps, (Unchanged.withLate (lateStep_clear params s _ _ hstep) ht).yields _⟩

end Sys2Proof.Machine

/-! # LATE_OS_STEP (rules R331 to R333 and R382) -/

namespace Sys2Proof.Machine

open Sys2Proof.Config (Params)

/-! ## The oversampler's filters around a sub-step -/

/-- The input of the interpolation filter at sub-step `j` (rule R331). -/
def stuffed (factor j : Nat) (u : Word) : Word := if j = 0 then mul32 (nat32 factor) u else 0

section
variable {factor j : Nat} (x : Chan)

theorem upStage_eq (hf : 2 ≤ factor) (hj : j < factor) (u : Word) :
    upStage factor j x u =
      .ok ((bqProcess x.osUp (stuffed factor j u)).1, x.setBq .osUp (bqProcess x.osUp (stuffed factor j u)).2) := by
  rw [upStage, osUpStep_eq_bqProcess hf hj, bind_ok]
  rfl

theorem downStage_eq (hf : 2 ≤ factor) (z : Word) :
    downStage factor x z = .ok ((bqProcess x.osDown z).1, x.setBq .osDown (bqProcess x.osDown z).2) := by
  rw [downStage, osDownStep_eq_bqProcess hf, bind_ok]
  rfl

end

/-- A channel with the oversampler's filters of another. -/
def Chan.withOs (x y : Chan) : Chan := { x with osUp := y.osUp, osDown := y.osDown }

theorem Chan.line_withOs (x y : Chan) (r : LineRole) : (x.withOs y).line r = x.line r := by
  rcases r with ⟨_ | _ | _ | _ | _ | _ | _ | _ | _⟩ | _ | _ | _ | _ | _ | _ <;> rfl

theorem Chan.iir1_withOs (x y : Chan) (r : Iir1Role) : (x.withOs y).iir1 r = x.iir1 r := by cases r <;> rfl

/-- Channels that differ in the late network's parts and the oversampler's filters only are within the frame of an
oversampled sub-step. -/
theorem Unchanged.withLateOs {s t : State} (h : t.clearStream = s.clearStream)
    (ht : ∀ c, t.chan c = ((s.chan c).withLate (t.chan c)).withOs (t.chan c)) : Unchanged lateOsTouched s t := by
  refine .of_late h (fun c r hr => ?_) (fun c r hr => ?_) (fun c r hr => ?_)
  · rw [ht, Chan.line_withOs, Chan.line_withLate, if_neg hr]
  · rw [ht, Chan.iir1_withOs, Chan.iir1_withLate, if_neg hr]
  · cases r <;> simp [mem_onBoth] at hr

/-- The late network reads and writes neither filter of the oversampler. -/
theorem LateSteps.around {s t : State} {u y : Pair} {f g : Ch → Bq}
    (h : LateSteps (s.withChans fun c => (s.chan c).setBq .osUp (f c)) t u y) :
    LateSteps s (t.withChans fun c => (t.chan c).setBq .osDown (g c)) u y := by
  obtain ⟨o1, m1, o2, m2, p, e, q, ba, bl, b, k₁, a1, a2, sd, d1, c2, d2, k, z, ol, v, ho1, hm1, ho2, hm2, hn,
    h⟩ := h
  refine ⟨o1, m1, o2, m2, p, e, q, ba, bl, b, k₁, a1, a2, sd, d1, c2, d2, k, z, ol, v, ho1, hm1, ho2, hm2, hn,
    fun c => ?_⟩
  cases c with
  | left => exact h .left
  | right => exact h .right

section
variable {P : Params} {s0 s : State}

theorem Streams.withChans (h : Streams P s0 s) {x : Ch → Chan} (hx : ∀ c, (x c).Sound P) :
    Streams P s0 (s.withChans x) := h.withParts (hx .left) (hx .right) h.noise

/-- One oversampled sub-step: up filter, late network, down filter (rule R382). -/
theorem subStep_steps (h : Streams P s0 s) (hf : 2 ≤ s0.eng.factor) {j : Nat} (hj : j < s0.eng.factor) (u : Pair) :
    ∃ (y : Pair) (t : State), subStep P s u j = .ok (y, t) ∧ SubSteps s t u j y ∧
      Unchanged lateOsTouched s t := by
  let up c := bqProcess (s.chan c).osUp (stuffed s.eng.factor j (u.get c))
  rw [← h.eng] at hf hj
  have hup c := upStage_eq (s.chan c) hf hj (u.get c)
  let w := s.withChans fun c => (s.chan c).setBq .osUp (up c).2
  have hw : Streams P s0 w := h.withChans fun c => (h.chan c).setBq _ _
  obtain ⟨z, r, hlate, hr, hsteps⟩ := lateStep_steps hw (pairOf fun c => (up c).1)
  let down c := bqProcess (r.chan c).osDown (z.get c)
  have hdown c := downStage_eq (r.chan c) hf (z.get c)
  have hrchan c : r.chan c = ((s.chan c).setBq .osUp (up c).2).withLate (r.chan c) := by
    have hwl := State.chan_withLate w r c
    rwa [← hr, State.chan_withChans] at hwl
  have hstep : subStep P s u j =
      .ok (pairOf fun c => (down c).1, r.withChans fun c => (r.chan c).setBq .osDown (down c).2) := by
    refine (bothChans_bind (x := s.chan) (v := u.get) hup s _).trans (bind_eq_ok.mpr ⟨_, hlate, ?_⟩)
    exact perChannel_bothChans _ r r.chan _ z.get _ hdown
  refine ⟨_, _, hstep, ⟨_, z, hsteps.around, fun c => ?_⟩,
    .withLateOs (subStep_clear P s u j _ hstep) fun c => ?_⟩
  · have hosUp : (r.chan c).osUp = (up c).2 := (congrArg Chan.osUp (hrchan c) :)
    have hosDown : (r.chan c).osDown = (s.chan c).osDown := (congrArg Chan.osDown (hrchan c) :)
    rw [State.chan_withChans, Pair.get_pairOf, Pair.get_pairOf, ← hosDown]
    refine ⟨?_, bqProcess_steps _ _⟩
    show (s.chan c).osUp.Steps (r.chan c).osUp _ _
    rw [hosUp]
    exact bqProcess_steps _ _
  · rw [State.chan_withChans, hrchan]
    rfl

/-- The last `n` sub-steps, from sub-step `j` on: the states between them and the outputs after each. -/
theorem subSteps_steps (hf : 2 ≤ s0.eng.factor) (u : Pair) {n j : Nat} (last : Pair) {s : State}
    (h : Streams P s0 s) (hj : j + n = s0.eng.factor) :
    ∃ (st : Nat → State) (ys : Nat → Pair), subSteps P u n j (some last) s = .ok (ys n, st n) ∧
      st 0 = s ∧ ys 0 = last ∧
      ∀ i, i < n → SubSteps (st i) (st (i + 1)) u (j + i) (ys (i + 1)) ∧
        Unchanged lateOsTouched (st i) (st (i + 1)) := by
  induction n generalizing j last s with
  | zero => exact ⟨fun _ => s, fun _ => last, rfl, rfl, rfl, nofun⟩
  | succ n ih =>
    have hlt : j < s0.eng.factor := by omega
    obtain ⟨y, t, hstep, hsub, hframe⟩ := subStep_steps h hf hlt u
    have ht : Streams P s0 t := (subStep_succeeds h hf hlt u).of_eq hstep
    obtain ⟨st, ys, hrun, rfl, rfl, hsteps⟩ := ih (j := j + 1) y ht (by omega)
    refine ⟨consSeq s st, consSeq last ys, bind_eq_ok.mpr ⟨_, hstep, hrun⟩, rfl, rfl, fun i hi => ?_⟩
    cases i with
    | zero => exact ⟨hsub, hframe⟩
    | succ i =>
      have hi := hsteps i (by omega)
      rwa [Nat.add_right_comm, Nat.add_assoc] at hi

/-- LATE_OS_STEP completes: one sub-step, or the oversampled ones (rule R382). -/
theorem lateOsStep_steps (h : Streams P s0 s) (u : Pair) :
    ∃ (y : Pair) (t : State), lateOsStep P s u = .ok (y, t) ∧ LateOsSteps s t u y := by
  unfold lateOsStep
  by_cases hone : s.eng.factor = 1
  · obtain ⟨y, t, hstep, ht, hsteps⟩ := lateStep_steps h u
    rw [if_pos hone]
    have hframe : Unchanged lateTouched s t := .withLate (lateStep_clear P s u _ hstep) ht
    exact ⟨y, t, hstep, fun _ => ⟨hsteps, hframe⟩, fun hne => absurd hone hne⟩
  · have hge := h.inv.factor_ge
    obtain ⟨n, hn⟩ : ∃ n, s.eng.factor = n + 1 := ⟨s.eng.factor - 1, by omega⟩
    have htwo : 2 ≤ s.eng.factor := by omega
    obtain ⟨st, ys, hrun, hst, _, hsteps⟩ :=
      subSteps_steps htwo u u (.refl h.inv h.active) (show 0 + (n + 1) = s.eng.factor by omega)
    rw [if_neg hone, hn]
    refine ⟨ys (n + 1), st (n + 1), hrun, fun h1 => absurd h1 hone, fun _ => ?_⟩
    refine ⟨st, fun i => ys (i + 1), hst, ?_⟩
    rw [hn]
    refine ⟨rfl, rfl, fun i hi => ?_⟩
    have hi := hsteps i hi
    rwa [Nat.zero_add] at hi

end

/-- Settles O51: the states between the sub-steps are collected by induction on their number. -/
theorem lateOsStepResult : Obligations.LateOsStepResult := by
  intro uL uR s hinv hactive
  obtain ⟨y, t, hstep, hsteps⟩ := lateOsStep_steps (.refl hinv hactive) ⟨uL, uR⟩
  refine ⟨t, y, ?_, hsteps⟩
  show execLateOsStep uL uR s = _
  rw [execLateOsStep, needActive_of_active hactive, bind_ok, hstep, bind_ok]
  rfl

end Sys2Proof.Machine

/-! # ENGINE_SAMPLE and the PROCESS commands in ACTIVE (rules R390, R426 and R427) -/

namespace Sys2Proof.Machine

open Sys2Proof.Config (Params)

/-! ## The input delays -/

section
variable {P : Params} {x : Chan}

theorem preWetStage_ok (h : x.Sound P) (v : Word) :
    ∃ y d, preWetStage P x v = .ok (y, x.setLine (.dl .preWet) d) ∧ x.preWet.Delays d v y := by
  obtain ⟨y, d, hd, hdelay, _⟩ := lineProcess_ok (h.line_ok (.dl .preWet)) v
  exact ⟨y, d, bind_eq_ok.mpr ⟨_, hd, rfl⟩, hdelay⟩

theorem preDryStage_ok (h : x.Sound P) (v : Word) :
    ∃ y d, preDryStage P x v = .ok (y, x.setLine (.dl .preDry) d) ∧ x.preDry.Delays d v y := by
  obtain ⟨y, d, hd, hdelay, _⟩ := lineProcess_ok (h.line_ok (.dl .preDry)) v
  exact ⟨y, d, bind_eq_ok.mpr ⟨_, hd, rfl⟩, hdelay⟩

end

/-- A channel with both input delays replaced. -/
def Chan.withPre (x : Chan) (wet dry : Line) : Chan := (x.setLine (.dl .preWet) wet).setLine (.dl .preDry) dry

theorem Chan.line_withPre {x : Chan} {wet dry : Line} {r : LineRole} (h : r ∉ [.dl .preWet, .dl .preDry]) :
    (x.withPre wet dry).line r = x.line r := by
  obtain ⟨hwet, hdry⟩ : r ≠ .dl .preWet ∧ r ≠ .dl .preDry := by simpa using h
  rw [Chan.withPre, Chan.line_setLine, if_neg hdry, Chan.line_setLine, if_neg hwet]

/-- Channels that differ in the input delays and the early-reflection network's parts only are within the frame of
the graph's head. -/
theorem Unchanged.withHead {s : State} {y : Ch → Chan} {wet dry : Ch → Line}
    (hy : ∀ c, y c = ((s.chan c).withPre (wet c) (dry c)).withEr (y c))
    (h : (s.withChans y).clearStream = s.clearStream) : Unchanged headTouched s (s.withChans y) := by
  refine .of_er h (fun c r hr => ?_) (fun c r => ?_) (fun c r hr => ?_) (fun c r => ?_) (fun c => ?_)
  · obtain ⟨hpre, her⟩ := not_or.mp (mt List.mem_append.mpr hr)
    rw [hy, Chan.line_withEr, if_neg (mt mem_onBoth.mpr her), Chan.line_withPre (mt mem_onBoth.mpr hpre)]
  · rw [hy, Chan.apm_withEr]
    simp [Chan.withPre]
  · rw [hy, Chan.iir1_withEr, if_neg hr]
    simp [Chan.withPre]
  · rw [hy, Chan.bq_withEr]
    simp [Chan.withPre]
  · rw [hy]
    rfl

/-- The early-reflection network reads neither input delay. -/
theorem ErSteps.of_pre {s t : State} {u e a : Pair} {wet dry : Ch → Line}
    (h : ErSteps (s.withChans fun c => (s.chan c).withPre (wet c) (dry c)) t u e a) : ErSteps s t u e a := by
  obtain ⟨k, xd, r, h⟩ := h
  refine ⟨k, xd, r, fun c => ?_⟩
  cases c with
  | left => exact h .left
  | right => exact h .right

section
variable {P : Params} {s0 s : State}

/-- ENGINE_SAMPLE completes, stage by stage as rule R390 says. -/
theorem engineSample_steps (h : Streams P s0 s) (x : Pair) :
    ∃ (y : Pair) (t : State), engineSample P s x = .ok (y, t) ∧ EngineSteps s t x y := by
  choose wetIn wet hwet hwets using fun c => preWetStage_ok (h.chan c) (x.get c)
  have hwetSound c : ((s.chan c).setLine (.dl .preWet) (wet c)).Sound P :=
    (preWetStage_succeeds (h.chan c) (x.get c)).of_eq (hwet c)
  choose dryIn dry hdry hdrys using fun c => preDryStage_ok (hwetSound c) (x.get c)
  let d := s.withChans fun c => (s.chan c).withPre (wet c) (dry c)
  have hd : Streams P s0 d := h.withChans fun c => (preDryStage_succeeds (hwetSound c) (x.get c)).of_eq (hdry c)
  obtain ⟨e, a, y, hstep, hy, hsteps⟩ := erStep_steps hd (pairOf wetIn)
  let li := pairOf fun c => add32 (a.get c) (mul32 s.eng.ertolate (e.get c))
  have hr : Streams P s0 (s.withChans y) := (erStep_succeeds hd _).of_eq hstep
  obtain ⟨l, t, hlate, hlates⟩ := lateOsStep_steps hr li
  let m c := add32 (l.get c) (e.get c)
  refine ⟨pairOf fun c => mixOut s.eng (dryIn c) (m c) (m c.other), t, ?_, ?_⟩
  · refine (bothChans_bind (x := s.chan) (v := x.get) hwet s _).trans ?_
    refine (bothChans_bind (v := x.get) hdry s _).trans ?_
    exact bind_eq_ok.mpr ⟨_, hstep, bind_eq_ok.mpr ⟨_, hlate, rfl⟩⟩
  · have hychan c : y c = ((s.chan c).withPre (wet c) (dry c)).withEr (y c) := by
      have hyc := hy c
      rwa [State.chan_withChans] at hyc
    have hpre : d.clearStream = s.clearStream := State.clearStream_withChans fun c =>
      (preDryStage_clear P _ _ _ (hdry c)).trans (preWetStage_clear P _ _ _ (hwet c))
    have hclear : (s.withChans y).clearStream = s.clearStream := (erStep_clear P d _ _ hstep).trans hpre
    refine ⟨s.withChans y, pairOf dryIn, e, a, l, li, ⟨pairOf wetIn, hsteps.of_pre, fun c => ?_⟩,
      .withHead hychan hclear, hlates, fun c => ?_⟩
    · rw [State.chan_withChans, Pair.get_pairOf, Pair.get_pairOf, hychan]
      exact ⟨hwets c, hdrys c⟩
    · rw [Pair.get_pairOf, Pair.get_pairOf, Pair.get_pairOf]
      exact ⟨rfl, rfl⟩

end

/-- Settles O52: input delays, early reflections and late network, one after another. -/
theorem engineSampleResult : Obligations.EngineSampleResult := by
  intro inL inR s hinv hactive
  obtain ⟨y, t, hstep, hsteps⟩ := engineSample_steps (.refl hinv hactive) ⟨inL, inR⟩
  refine ⟨t, y, ?_, hsteps⟩
  show execEngineSample inL inR s = _
  rw [execEngineSample, needActive_of_active hactive, bind_ok, hstep, bind_ok]
  rfl

/-! ## The PROCESS commands -/

/-- A block in ACTIVE is one engine sample for each pair, in order (rule R427). -/
theorem sampleSteps_steps {P : Params} {s0 s : State} (h : Streams P s0 s) (xs : List Pair) :
    ∃ (ys : List Pair) (t : State), sampleSteps P xs s = .ok (ys, t) ∧ BlockSteps s t xs ys := by
  induction xs generalizing s with
  | nil => exact ⟨[], s, rfl, rfl⟩
  | cons x xs ih =>
    obtain ⟨y, r, hstep, hsteps⟩ := engineSample_steps h x
    obtain ⟨ys, t, hrest, hblock⟩ := ih ((engineSample_succeeds h x).of_eq hstep)
    have hsample := (sampleStep_of_active h.active x).trans hstep
    exact ⟨y :: ys, t, bind_eq_ok.mpr ⟨_, hsample, bind_eq_ok.mpr ⟨_, hrest, rfl⟩⟩, r, hsteps, hblock⟩

/-- Settles O27: in ACTIVE each sample step is an engine sample, and completes. -/
theorem processCommandsInActive : Obligations.ProcessCommandsInActive := by
  refine fun s hinv hactive => ⟨fun a b => ?_, fun xs => ?_⟩
  · obtain ⟨y, t, hstep, hsteps⟩ := engineSample_steps (.refl hinv hactive) ⟨a, b⟩
    exact ⟨t, y, hsteps, exec_processSample ((sampleStep_of_active hactive _).trans hstep)⟩
  · obtain ⟨ys, t, hstep, hblock⟩ := sampleSteps_steps (.refl hinv hactive) xs
    exact ⟨t, ys, hblock, exec_processBlock hstep⟩

end Sys2Proof.Machine
